-- ==== Sys2Proof/Machine/Params.lean ====
section
/-! DEFINITION. The parameters of R6 and R14, each a named constant at the source's value (D12, log 10). Every other file
uses the names, so that a corrected literal changes one place: this one. -/

namespace Sys2Proof.Config

/-- MEMORY_SIZE: the number of memory cells (R6, R15). -/
@[simp] abbrev memorySize : Nat := 256

/-- CELL_WIDTH: bits per cell, and so the width of R1, R2 and every instruction field (R6, R16, R51). -/
@[simp] abbrev cellWidth : Nat := 8

/-- MEMORY_SHIFT: the first address of the instruction window and the reset `pc` (R6, R20, R42). -/
@[simp] abbrev memoryShift : Nat := 8

/-- The data window [0, MEMORY_SHIFT) (R6, R32). -/
@[simp] abbrev DataWindow (a : Nat) : Prop := a < memoryShift

/-- The instruction window [MEMORY_SHIFT, MEMORY_SIZE) (R6, R32). -/
@[simp] abbrev InstrWindow (a : Nat) : Prop := memoryShift ≤ a ∧ a < memorySize

/-- The number of general registers (R6, R16). -/
@[simp] abbrev registerCount : Nat := 2

/-- The width of the source's slot for `pc` (R6). The value held is a natural number (R19, D8), which fits the slot in every
reachable state (R21). -/
@[simp] abbrev pcWidth : Nat := 8

/-- Opcode byte of LOAD (R6, R56). -/
@[simp] abbrev opLoad : BitVec cellWidth := 0x01
/-- Opcode byte of STORE (R6, R56). -/
@[simp] abbrev opStore : BitVec cellWidth := 0x02
/-- Opcode byte of ADD (R6, R56). -/
@[simp] abbrev opAdd : BitVec cellWidth := 0x03
/-- Opcode byte of SUB (R6, R56). -/
@[simp] abbrev opSub : BitVec cellWidth := 0x04
/-- Opcode byte of HALT (R6, R56). -/
@[simp] abbrev opHalt : BitVec cellWidth := 0xFF
/-- Reserved opcode byte ADDI (R57, R68). -/
@[simp] abbrev opAddi : BitVec cellWidth := 0x05
/-- Reserved opcode byte SUBI (R57, R68). -/
@[simp] abbrev opSubi : BitVec cellWidth := 0x06
/-- Reserved opcode byte JUMP (R57, R68). -/
@[simp] abbrev opJump : BitVec cellWidth := 0x07
/-- Reserved opcode byte BEQZ (R57, R68). -/
@[simp] abbrev opBeqz : BitVec cellWidth := 0x08

/-- The register selector byte that names R1 (R6, R17). -/
@[simp] abbrev selR1 : BitVec cellWidth := 0x01
/-- The register selector byte that names R2 (R6, R17). -/
@[simp] abbrev selR2 : BitVec cellWidth := 0x02

/-- How far `pc` moves when an instruction completes: the 3 bytes of LOAD, STORE, ADD and SUB (R6, R50, R70). -/
@[simp] abbrev instrLength : Nat := 3

/-- The length of HALT, which is its opcode byte alone (R6, R50). -/
@[simp] abbrev haltLength : Nat := 1

/-- STEP_LIMIT (R6, D9): a parameter of the harness, not of the core; by default there is none. -/
def stepLimit : Option Nat := none

end Sys2Proof.Config
end

