-- ==== Sys2Proof/Word.lean ====
section
/-! DEFINITION. The one word type of the machine: the byte (R9, R80). -/

namespace Sys2Proof

/-- A byte: an unsigned integer in [0, 255] (R9), the content of a cell (R15), of R1 and R2 (R16) and of every
instruction field (R51). Its width is CELL_WIDTH of R6. -/
abbrev Byte := BitVec Config.cellWidth

end Sys2Proof
end

