-- ==== Sys2Proof/Machine/Alu.lean ====
section
/-! DEFINITION. The ALU (R76): 8-bit addition and subtraction modulo 256, and nothing else. The core has no flags (R23),
so no operation gives a carry, a borrow or an overflow indication. -/

namespace Sys2Proof.Machine

/-- `alu_add(a, b) = (a + b) mod 256` (R76). -/
def aluAdd (a b : Byte) : Byte := BitVec.ofNat Config.cellWidth (a.toNat + b.toNat)

/-- `alu_sub(a, b) = (a - b) mod 256` (R76), the difference exact and then narrowed (R9). -/
def aluSub (a b : Byte) : Byte := BitVec.ofInt Config.cellWidth ((a.toNat : Int) - (b.toNat : Int))

end Sys2Proof.Machine
end

