-- ==== Sys2Proof/Config.lean ====
section
/-! DEFINITION. What is fixed for a run beside the parameters of Machine/Params.lean: the byte an unlisted cell of the
model's memory holds, and the bound that the spec derives for a run. The spec leaves no instruction's result open, so there is no free
value here. -/

namespace Sys2Proof.Config

/-- What a cell that the memory list does not name holds. DESIGN CHOICE (log 1), unsafe: the spec gives the cells no
value of their own at reset, the host's image does (R30); this is the image that `State.reset` stands for. -/
@[simp] abbrev unlistedByte : Byte := 0

/-- The bound of R72: in the default configuration every run ends within this many steps. -/
def runBound : Nat := 83

end Sys2Proof.Config
end

