-- ==== Sys2Proof/Syntax.lean ====
section
/-! DEFINITION. The instructions: one constructor for each row of spec/opcode_table.json. -/

namespace Sys2Proof

/-- The rows of spec/opcode_table.json. A selector or address operand is the raw operand byte, because every byte value
is encodable there and only execution rejects one (R58). -/
inductive Instr where
  /-- LOAD, format M (R51, R73): selector byte `s`, address byte `a`. -/
  | load (s a : Byte)
  /-- STORE, format M (R51, R74): selector byte `s`, address byte `a`. -/
  | store (s a : Byte)
  /-- ADD, format R (R51, R77): selector bytes `d` (source and destination) and `t`. -/
  | add (d t : Byte)
  /-- SUB, format R (R51, R78): selector bytes `d` (minuend and destination) and `t`. -/
  | sub (d t : Byte)
  /-- HALT, format H (R51, R66). -/
  | halt
  /-- Opcode 0x05, reserved for ADDI, no handler (R57, R68). -/
  | reservedAddi
  /-- Opcode 0x06, reserved for SUBI, no handler (R57, R68). -/
  | reservedSubi
  /-- Opcode 0x07, reserved for JUMP, no handler (R57, R68). -/
  | reservedJump
  /-- Opcode 0x08, reserved for BEQZ, no handler (R57, R68). -/
  | reservedBeqz
  /-- Any opcode byte that no other row matches (R58, R67). -/
  | unknown (op : Byte)
  deriving DecidableEq, Repr

/-- How many bytes of the stream the instruction takes (R50): 3 for formats M and R, and the opcode byte alone, as many
bytes as HALT has, for a byte without a handler, after which no operand is fetched. -/
def Instr.length : Instr → Nat
  | .load _ _ | .store _ _ | .add _ _ | .sub _ _ => Config.instrLength
  | .halt | .reservedAddi | .reservedSubi | .reservedJump | .reservedBeqz => Config.haltLength
  | .unknown _ => Config.haltLength

end Sys2Proof
end

