-- ==== Sys2Proof/WellFormed.lean ====
section
/-! DEFINITION. Two checks on instructions: that a term stands for an encoding of the table, and that its operand bytes
are ones the core accepts. -/

namespace Sys2Proof

/-- The opcode bytes that a row other than `(unknown)` matches (R56, R57). -/
def namedOpcodes : List Byte :=
  [Config.opLoad, Config.opStore, Config.opAdd, Config.opSub, Config.opHalt,
    Config.opAddi, Config.opSubi, Config.opJump, Config.opBeqz]

/-- The term stands for an encoding: the `(unknown)` row applies only to an opcode byte that no other row matches (R52).
Every operand byte is encodable (R58). -/
def Instr.wellFormed : Instr → Bool
  | .unknown op => !namedOpcodes.contains op
  | .load _ _ | .store _ _ | .add _ _ | .sub _ _ => true
  | .halt | .reservedAddi | .reservedSubi | .reservedJump | .reservedBeqz => true

/-- The byte is a register selector: it names R1 or R2 (R17, R53). -/
def isSelector (b : Byte) : Bool := b == Config.selR1 || b == Config.selR2

/-- The byte is a data address that the bounds checker accepts (R34, R54). -/
def isDataAddress (a : Byte) : Bool := Config.DataWindow a.toNat

/-- The instruction is legal (R58): its opcode has a meaning of its own and none of its operand bytes is one that the
core rejects. -/
def Instr.legal : Instr → Bool
  | .load s a => isSelector s && isDataAddress a
  | .store s a => isSelector s && isDataAddress a
  | .add d t => isSelector d && isSelector t
  | .sub d t => isSelector d && isSelector t
  | .halt => true
  | .reservedAddi | .reservedSubi | .reservedJump | .reservedBeqz => false
  | .unknown _ => false

end Sys2Proof
end

