-- ==== Sys2Proof/Decode.lean ====
section
/-! DEFINITION. The decoder, from the bytes of the instruction stream (R50, R51, R56), and after it the encoder. -/

namespace Sys2Proof

/-- Why a list of bytes holds no whole instruction. Neither can happen to the core itself, which fetches an opcode byte
and then as many operand bytes as the opcode takes; both are safe. -/
inductive DecodeError where
  /-- There is no opcode byte. -/
  | missingOpcode
  /-- The opcode `op` takes two operand bytes (R50) and fewer follow. -/
  | missingOperands (op : Byte)
  deriving DecidableEq, Repr

/-- How many operand bytes follow the opcode byte: the opcode alone fixes it (R50, R65). They are all the bytes of the
instruction but the first. -/
def operandCount (op : Byte) : Nat :=
  if op = Config.opLoad ∨ op = Config.opStore ∨ op = Config.opAdd ∨ op = Config.opSub then
    Config.instrLength - 1
  else 0

/-- Formats M and R (R51): the two bytes after the opcode are the operands, in ascending address order (R38). -/
def decodeOperands (mk : Byte → Byte → Instr) (op : Byte) :
    List Byte → Except DecodeError (Instr × List Byte)
  | b1 :: b2 :: rest => .ok (mk b1 b2, rest)
  | _ => .error (.missingOperands op)

/-- The opcode map of R56: the instruction that begins the stream, and the bytes after it. -/
def decode : List Byte → Except DecodeError (Instr × List Byte)
  | [] => .error .missingOpcode
  | op :: rest =>
    if op = Config.opHalt then .ok (.halt, rest)
    else if op = Config.opLoad then decodeOperands .load op rest
    else if op = Config.opStore then decodeOperands .store op rest
    else if op = Config.opAdd then decodeOperands .add op rest
    else if op = Config.opSub then decodeOperands .sub op rest
    else if op = Config.opAddi then .ok (.reservedAddi, rest)
    else if op = Config.opSubi then .ok (.reservedSubi, rest)
    else if op = Config.opJump then .ok (.reservedJump, rest)
    else if op = Config.opBeqz then .ok (.reservedBeqz, rest)
    else .ok (.unknown op, rest)

/-- The bytes of an instruction, in ascending address order (R38, R51). -/
def encode : Instr → List Byte
  | .load s a => [Config.opLoad, s, a]
  | .store s a => [Config.opStore, s, a]
  | .add d t => [Config.opAdd, d, t]
  | .sub d t => [Config.opSub, d, t]
  | .halt => [Config.opHalt]
  | .reservedAddi => [Config.opAddi]
  | .reservedSubi => [Config.opSubi]
  | .reservedJump => [Config.opJump]
  | .reservedBeqz => [Config.opBeqz]
  | .unknown op => [op]

/-- Byte `k` of an `n`-byte instruction written as the number `w` of the opcode table: R52 puts the byte at the lowest
address in the most significant place. Bytes past the `n`th are 0. -/
def tableByte (n w k : Nat) : Byte :=
  if k < n then BitVec.ofNat Config.cellWidth (w / 2 ^ (Config.cellWidth * (n - 1 - k))) else 0

/-- The bytes of the longest instruction (R50) for a table number of `nbits` bits (R52, log 5). -/
def tableBytes (nbits w : Nat) : List Byte :=
  (List.range Config.instrLength).map (tableByte (nbits / Config.cellWidth) w)

/-- The instruction the decoder reads from a table number of `nbits` bits (R52, log 5). -/
def decodeTableWord (nbits w : Nat) : Option Instr :=
  match decode (tableBytes nbits w) with
  | .ok (i, _) => some i
  | .error _ => none

end Sys2Proof
end

