-- ==== Sys2Proof/Machine/State.lean ====
section
/-! DEFINITION. The architectural state (R13: "Nothing else is state"), the reasons a step can stop, and the state after
reset. -/

namespace Sys2Proof.Machine

/-- The general registers (R16). The register file has no other (R28). -/
inductive Reg where
  | r1
  | r2
  deriving DecidableEq, Repr

/-- The run state (R25). -/
inductive RunState where
  | running
  | halted
  | faulted
  deriving DecidableEq, Repr

/-- The kind of access an OutOfRange record names (R27, D5). -/
inductive Access where
  | fetch
  | dataRead
  | dataWrite
  deriving DecidableEq, Repr

/-- The fault record (R27). An address in it is a natural number, formed without truncation (R9). -/
inductive FaultRecord where
  /-- NONE: no fault so far. -/
  | noFault
  /-- OutOfRange (R82): the rejected address and the kind of access. -/
  | outOfRange (addr : Nat) (access : Access)
  /-- InvalidOperand (R83): the operand byte and the address it was fetched from. -/
  | invalidOperand (byte : Byte) (addr : Nat)
  /-- UnknownOpcode (R84): the opcode byte and `pc`. -/
  | unknownOpcode (byte : Byte) (addr : Nat)
  deriving DecidableEq, Repr

/-- The memory array (R15): the cells that do not hold `Config.unlistedByte`, by rising address. `Memory.wf` says so. -/
abbrev Memory := List Host.Cell

/-- The state of R13. -/
structure State where
  /-- The 256 cells (R15). -/
  mem : Memory
  /-- The program counter, a natural number (R19). -/
  pc : Nat
  /-- General register R1, `x[1]` (R16). -/
  r1 : Byte
  /-- General register R2, `x[2]` (R16). -/
  r2 : Byte
  /-- The run state (R25). -/
  run : RunState
  /-- The fault record (R27). -/
  fault : FaultRecord
  deriving DecidableEq, Repr

/-- Why there is no next state. The core's own three faults (R81) are NOT here: raising one is a next state whose run
state is FAULTED (R11). -/
inductive Fault where
  /-- Answered by `step` alone, in a state whose run state is `run` ≠ RUNNING: there is no step there (R26). Safe. -/
  | stopped (run : RunState)
  deriving DecidableEq, Repr

/-- Why an instruction has no meaning. -/
inductive Refusal where
  /-- Answered by an arm of `exec` for an instruction without a meaning; no arm does so now. Safe. -/
  | notModelled (mnemonic : String)
  /-- Answered by `step` if the fetched bytes held no whole instruction. The fetch unit supplies every byte the opcode
  takes, so this never happens. Safe. -/
  | undecodable
  deriving DecidableEq, Repr

/-- The state after reset (R30, R97): `pc` is MEMORY_SHIFT, R1 and R2 are 0, the core is RUNNING and there is no fault.
The image is the one with nothing listed (log 1); `State.start` takes any other. -/
def State.reset : State where
  mem := []
  pc := Config.memoryShift
  r1 := 0
  r2 := 0
  run := .running
  fault := .noFault

end Sys2Proof.Machine
end

