-- ==== Sys2Proof/Machine/Ops.lean ====
section
/-! DEFINITION. The named operations over memory and registers: the cells of the array, the bounds checker's accessors
(R33, R34), the register file (R16), the program counter sequencer (R70), raising a fault (R11) and `start` (R97), the
only way out of one. -/

namespace Sys2Proof.Machine

/-! ### The memory array (R15) -/

/-- Every address from `lo` on in rising order and in the array, and no entry that equals what an unlisted cell holds. -/
def Memory.wfFrom (lo : Nat) : Memory → Bool
  | [] => true
  | (a, v) :: m =>
    decide (lo ≤ a) && decide (a < Config.memorySize) && v != Config.unlistedByte && Memory.wfFrom (a + 1) m

/-- The canonical form: memories with the same cells are equal lists. -/
def Memory.wf (m : Memory) : Bool := Memory.wfFrom 0 m

/-- `MemRead(a, 1)` of R10: the byte in cell `a`. -/
def Memory.read : Memory → Nat → Byte
  | [], _ => Config.unlistedByte
  | (k, v) :: m, a => if a = k then v else Memory.read m a

/-- `cell` before `m`, unless it holds what an unlisted cell holds. -/
def Memory.consCell (a : Nat) (v : Byte) (m : Memory) : Memory :=
  if v = Config.unlistedByte then m else (a, v) :: m

/-- `MemWrite(a, 1, v)` of R10: cell `a` holds `v` afterwards, in canonical form. -/
def Memory.write : Memory → Nat → Byte → Memory
  | [], a, v => Memory.consCell a v []
  | (k, w) :: m, a, v =>
    if a < k then Memory.consCell a v ((k, w) :: m)
    else if a = k then Memory.consCell a v m
    else (k, w) :: Memory.write m a v

/-- The memory whose cells from `lo` on hold the listed bytes. -/
def Memory.ofBytes (lo : Nat) : List Byte → Memory
  | [] => []
  | b :: bs => Memory.consCell lo b (Memory.ofBytes (lo + 1) bs)

/-- `bs` written to consecutive cells from `a` on; an address outside the array is no cell and is passed over. -/
def Memory.writeBytes (m : Memory) (a : Nat) : List Byte → Memory
  | [] => m
  | b :: bs => Memory.writeBytes (if a < Config.memorySize then m.write a b else m) (a + 1) bs

/-! ### The bounds checker (R32 to R36) -/

/-- `FetchByte(a)`, the instruction-window accessor (R33). -/
def State.fetchByte (s : State) (a : Nat) : Except FaultRecord Byte :=
  if Config.InstrWindow a then .ok (s.mem.read a)
  else .error (.outOfRange a .fetch)

/-- `DataRead(a)`, the data-window accessor for reading (R34). -/
def State.dataRead (s : State) (a : Nat) : Except FaultRecord Byte :=
  if Config.DataWindow a then .ok (s.mem.read a) else .error (.outOfRange a .dataRead)

/-- `DataWrite(a, v)`, the data-window accessor for writing (R34). -/
def State.dataWrite (s : State) (a : Nat) (v : Byte) : Except FaultRecord State :=
  if Config.DataWindow a then .ok { s with mem := s.mem.write a v }
  else .error (.outOfRange a .dataWrite)

/-! ### The register file (R16, R17) -/

/-- `x[s]` of R10. -/
def State.reg (s : State) : Reg → Byte
  | .r1 => s.r1
  | .r2 => s.r2

/-- `x[s] <- v` of R10. -/
def State.setReg (s : State) (r : Reg) (v : Byte) : State :=
  match r with
  | .r1 => { s with r1 := v }
  | .r2 => { s with r2 := v }

/-! ### The program counter sequencer (R70) -/

/-- The address of operand byte `k` (the first is 1), formed without truncation (R70, D8). -/
def operandAddress (pc k : Nat) : Nat := pc + k

/-- The value every handler returns: "Returns PC+3" (R70). -/
def nextPc (pc : Nat) : Nat := pc + Config.instrLength

/-- `pc <- next`, and `run` stays RUNNING (R69). -/
def State.advance (s : State) : State := { s with pc := nextPc s.pc }

/-! ### Faults (R11, R87, R88) and the end of a handler -/

/-- `raise F(info)`, the one exception entry of the core (R11, R87): the run state becomes FAULTED and the record is
kept; nothing else changes, so `pc` still names the faulting opcode byte (R88). There is no return from it (R89). -/
def State.raise (s : State) (f : FaultRecord) : State := { s with run := .faulted, fault := f }

/-- The end of a handler begun in `s`: it advanced to `t` (R69), or it raised a fault, and then no write of the step
takes effect (R11). -/
def finish (s : State) : Except FaultRecord State → Host.Outcome State Fault Refusal
  | .ok t => .next t
  | .error f => .next (s.raise f)

/-! ### `start` (R8, R97, R98) -/

/-- `start` with the host's image (R30, R97): the reset state with the image in the array. Nothing survives from an
earlier run, so it takes no state; it is the only exit from HALTED and FAULTED (R89, R96). The image has exactly
MEMORY_SIZE bytes (R99). -/
def State.start (image : Vector Byte Config.memorySize) : State :=
  { State.reset with mem := Memory.ofBytes 0 image.toList }

end Sys2Proof.Machine
end

