-- ==== Sys2Proof/Machine/Operands.lean ====
section
/-! DEFINITION. The operand forms (R17, R53, R54): the fetch of an operand byte, the register selector, and the address
byte. -/

namespace Sys2Proof.Machine

/-- `FetchByte(a)` inside a handler, for the operand byte `b` that the instruction in hand has at `a`: the bounds check of
R33, then the byte. In a step `b` is the byte of cell `a` (log 15). -/
def operandByte (a : Nat) (b : Byte) : Except FaultRecord Byte :=
  if Config.InstrWindow a then .ok b
  else .error (.outOfRange a .fetch)

/-- `Sel(b, a)` of R53: the register a selector byte fetched from `a` names (R17). -/
def selector (b : Byte) (a : Nat) : Except FaultRecord Reg :=
  if b = Config.selR1 then .ok .r1
  else if b = Config.selR2 then .ok .r2
  else .error (.invalidOperand b a)

/-- The operand byte `k` of the instruction at `pc`, fetched and decoded as a register selector (R53). -/
def selectorOperand (pc k : Nat) (b : Byte) : Except FaultRecord Reg := do
  let b ← operandByte (operandAddress pc k) b
  selector b (operandAddress pc k)

/-- The operand byte `k` of the instruction at `pc`, fetched as a data address: zero-extended, not scaled, no base and no
offset (R54). Its window is checked by the data access, not here. -/
def addressOperand (pc k : Nat) (b : Byte) : Except FaultRecord Nat := do
  let b ← operandByte (operandAddress pc k) b
  return b.toNat

end Sys2Proof.Machine
end

