-- ==== Sys2Proof/Machine/Arithmetic.lean ====
section
/-! DEFINITION. ADD and SUB (R77, R78): both selectors are fetched and decoded, both registers read, then the one write
is made (R79). Neither makes a data access (R37). -/

namespace Sys2Proof.Machine

/-- The handler that ADD and SUB share (R77, R78): `x[d] <- op(x[d], x[t])`. -/
def execAlu (op : Byte → Byte → Byte) (b1 b2 : Byte) (s : State) : Host.Outcome State Fault Refusal :=
  finish s do
    let d ← selectorOperand s.pc 1 b1
    let t ← selectorOperand s.pc 2 b2
    return (s.setReg d (op (s.reg d) (s.reg t))).advance

/-- ADD `Rd, Rt` (R77). -/
def execAdd (b1 b2 : Byte) (s : State) : Host.Outcome State Fault Refusal := execAlu aluAdd b1 b2 s

/-- SUB `Rd, Rt` (R78): the first operand is the minuend. -/
def execSub (b1 b2 : Byte) (s : State) : Host.Outcome State Fault Refusal := execAlu aluSub b1 b2 s

end Sys2Proof.Machine
end

