-- ==== Sys2Proof/Machine/Control.lean ====
section
/-! DEFINITION. HALT (R66) and the opcode bytes without a handler (R67, R68). -/

namespace Sys2Proof.Machine

/-- HALT (R66): `run` becomes HALTED; `pc` keeps the address of the HALT byte and nothing else changes. -/
def execHalt (s : State) : Host.Outcome State Fault Refusal := .next { s with run := .halted }

/-- The dispatcher's UnknownOpcode (R67, R84): the record holds the opcode byte and `pc`. -/
def raiseUnknownOpcode (op : Byte) (s : State) : Host.Outcome State Fault Refusal :=
  .next (s.raise (.unknownOpcode op s.pc))

/-- Opcode 0x05 is not immediate addition: it has no handler (R57, R68). -/
def execReservedAddi (s : State) : Host.Outcome State Fault Refusal := raiseUnknownOpcode Config.opAddi s

/-- Opcode 0x06 is not immediate subtraction: it has no handler (R57, R68). -/
def execReservedSubi (s : State) : Host.Outcome State Fault Refusal := raiseUnknownOpcode Config.opSubi s

/-- Opcode 0x07 is not a jump: it has no handler (R57, R68). -/
def execReservedJump (s : State) : Host.Outcome State Fault Refusal := raiseUnknownOpcode Config.opJump s

/-- Opcode 0x08 is not a branch: it has no handler (R57, R68). -/
def execReservedBeqz (s : State) : Host.Outcome State Fault Refusal := raiseUnknownOpcode Config.opBeqz s

/-- Any other opcode byte without a handler (R67). -/
def execUnknown (op : Byte) (s : State) : Host.Outcome State Fault Refusal := raiseUnknownOpcode op s

end Sys2Proof.Machine
end

