-- ==== Sys2Proof/Machine/LoadStore.lean ====
section
/-! DEFINITION. LOAD and STORE (R73, R74): the checks in the order of R86, the write last. -/

namespace Sys2Proof.Machine

/-- LOAD `Rs, a` (R73): `x[s] <- DataRead(a)`. -/
def execLoad (b1 b2 : Byte) (s : State) : Host.Outcome State Fault Refusal :=
  finish s do
    let r ← selectorOperand s.pc 1 b1
    let a ← addressOperand s.pc 2 b2
    let v ← s.dataRead a
    return (s.setReg r v).advance

/-- STORE `Rs, a` (R74): `DataWrite(a, x[s])`. -/
def execStore (b1 b2 : Byte) (s : State) : Host.Outcome State Fault Refusal :=
  finish s do
    let r ← selectorOperand s.pc 1 b1
    let a ← addressOperand s.pc 2 b2
    let t ← s.dataWrite a (s.reg r)
    return t.advance

end Sys2Proof.Machine
end

