-- ==== Sys2Proof/Machine/Dispatch.lean ====
section
/-! DEFINITION. The dispatch table (R14, R63): one meaning for each row of spec/opcode_table.json. -/

namespace Sys2Proof.Machine

/-- What an instruction does in a state whose `pc` is the address of its opcode byte (R63, from dispatch on). -/
def exec (i : Instr) (s : State) : Host.Outcome State Fault Refusal :=
  match i with
  | .load b1 b2 => Sys2Proof.Machine.execLoad b1 b2 s
  | .store b1 b2 => Sys2Proof.Machine.execStore b1 b2 s
  | .add b1 b2 => Sys2Proof.Machine.execAdd b1 b2 s
  | .sub b1 b2 => Sys2Proof.Machine.execSub b1 b2 s
  | .halt => Sys2Proof.Machine.execHalt s
  | .reservedAddi => Sys2Proof.Machine.execReservedAddi s
  | .reservedSubi => Sys2Proof.Machine.execReservedSubi s
  | .reservedJump => Sys2Proof.Machine.execReservedJump s
  | .reservedBeqz => Sys2Proof.Machine.execReservedBeqz s
  | .unknown op => Sys2Proof.Machine.execUnknown op s

end Sys2Proof.Machine
end

