-- ==== Sys2Proof/Machine/Sequencer.lean ====
section
/-! DEFINITION. The instruction fetch unit (R64, R65) and one step of the core (R63). -/

namespace Sys2Proof.Machine

/-- The byte the decoder is given for operand address `a`: the cell's, when the bounds checker accepts `a`. For a rejected
address there is no byte (R36) and the decoder is given 0; the handler's own check of the same address then raises
OutOfRange before that 0 is used (log 15). -/
def State.operandAt (s : State) (a : Nat) : Byte :=
  match s.fetchByte a with
  | .ok b => b
  | .error _ => 0

/-- The bytes of the instruction at `pc` whose opcode byte is `op`: as many operand bytes as the opcode takes, and none
after HALT or a byte without a handler (R64, R65). -/
def State.instrBytes (s : State) (op : Byte) : List Byte :=
  op :: (List.range (operandCount op)).map fun k => s.operandAt (operandAddress s.pc (k + 1))

/-- One pass of the loop in RUNNING (R63): fetch the opcode byte, decode, execute. -/
def stepRunning (s : State) : Host.Outcome State Fault Refusal :=
  match s.fetchByte s.pc with
  | .error f => .next (s.raise f)
  | .ok op =>
    match decode (s.instrBytes op) with
    | .ok (i, _) => exec i s
    | .error _ => .refused .undecodable

/-- One step of the core (R63). When `run` is HALTED or FAULTED there is no step (R26). -/
def stepCore (s : State) : Host.Outcome State Fault Refusal :=
  match s.run with
  | .running => stepRunning s
  | .halted => .fault (.stopped .halted)
  | .faulted => .fault (.stopped .faulted)

end Sys2Proof.Machine
end

