-- ==== Sys2Proof/Machine/Step.lean ====
section
/-! DEFINITION. The step of the machine, under its fixed name, and where it fetches. -/

namespace Sys2Proof.Machine

/-- One step of the core (R63, R26). -/
def step (s : State) : Host.Outcome State Fault Refusal := stepCore s

/-- `s` with the instruction that the opcode table writes as the `nbits`-bit number `w` (R52) in the three cells from
`pc` on, where the next step fetches it (R64). A `pc` near the top leaves out the bytes past the array. Nothing else
changes (log 11). -/
def State.withFetchWord (s : State) (nbits w : Nat) : State :=
  { s with mem := s.mem.writeBytes s.pc (tableBytes nbits w) }

end Sys2Proof.Machine
end

