-- ==== Sys2Proof/Machine/Assembler.lean ====
section
/-! DEFINITION. The assembler text of R61, over lists of characters. It is tooling (D14): no rule of the machine depends
on it. There are no pseudo-instructions and no directives (R62), and no form for the mnemonics of the reserved opcodes
(R57). -/

namespace Sys2Proof.Assembler

/-- The digit `0` to `9` of a number below 10. -/
def digitChar (n : Nat) : Char := Char.ofNat ('0'.toNat + n)

/-- A byte in decimal. -/
def printByte (b : Byte) : List Char :=
  let n := b.toNat
  if n < 10 then [digitChar n]
  else if n < 100 then [digitChar (n / 10), digitChar (n % 10)]
  else [digitChar (n / 100), digitChar (n / 10 % 10), digitChar (n % 10)]

/-- `R1` or `R2` for a selector byte; the syntax has no other register (R61). -/
def printReg (b : Byte) : Option (List Char) :=
  if b = Config.selR1 then some ['R', '1']
  else if b = Config.selR2 then some ['R', '2']
  else none

/-- The text of an instruction (R61); none where the syntax has no form for it. -/
def print : Instr → Option (List Char)
  | .load s a => (printReg s).map fun r => ['L', 'O', 'A', 'D', ' '] ++ r ++ [',', ' '] ++ printByte a
  | .store s a => (printReg s).map fun r => ['S', 'T', 'O', 'R', 'E', ' '] ++ r ++ [',', ' '] ++ printByte a
  | .add d t => do
    let r ← printReg d
    let q ← printReg t
    return ['A', 'D', 'D', ' '] ++ r ++ [',', ' '] ++ q
  | .sub d t => do
    let r ← printReg d
    let q ← printReg t
    return ['S', 'U', 'B', ' '] ++ r ++ [',', ' '] ++ q
  | .halt => some ['H', 'A', 'L', 'T']
  | .reservedAddi | .reservedSubi | .reservedJump | .reservedBeqz => none
  | .unknown _ => none

/-- The list without its leading spaces. -/
def dropSpaces : List Char → List Char
  | ' ' :: cs => dropSpaces cs
  | cs => cs

/-- The list without spaces at either end. -/
def trim (cs : List Char) : List Char := (dropSpaces (dropSpaces cs).reverse).reverse

/-- The parts of the list between separators. -/
def splitAtSep (sep : Char → Bool) : List Char → List (List Char)
  | [] => [[]]
  | c :: cs =>
    if sep c then [] :: splitAtSep sep cs
    else
      match splitAtSep sep cs with
      | [] => [[c]]
      | part :: parts => (c :: part) :: parts

/-- The value of a digit in base 10 or 16; hex digits in either case (log 12). -/
def digitValue (base : Nat) (c : Char) : Option Nat :=
  let n := c.toNat
  let v :=
    if 48 ≤ n ∧ n ≤ 57 then n - 48
    else if 97 ≤ n ∧ n ≤ 102 then n - 87
    else if 65 ≤ n ∧ n ≤ 70 then n - 55
    else 16
  if v < base then some v else none

/-- The value of a run of digits, `acc` standing for those already read. -/
def readDigits (base acc : Nat) : List Char → Option Nat
  | [] => some acc
  | c :: cs => (digitValue base c).bind fun d => readDigits base (acc * base + d) cs

/-- An unsigned number, decimal or `0x` hex, in 0 to 255 (R61). -/
def readByte (cs : List Char) : Option Byte :=
  let number :=
    match cs with
    | [] => none
    | '0' :: 'x' :: c :: ds => readDigits 16 0 (c :: ds)
    | c :: ds => readDigits 10 0 (c :: ds)
  number.bind fun n => if n < 2 ^ Config.cellWidth then some (BitVec.ofNat Config.cellWidth n) else none

/-- A register name (R61). -/
def readReg (cs : List Char) : Option Byte :=
  if cs = ['R', '1'] then some Config.selR1
  else if cs = ['R', '2'] then some Config.selR2
  else none

/-- The two operands of a form, separated by one comma; spaces about them do not count (log 12). -/
def readOperands (first second : List Char → Option Byte) (mk : Byte → Byte → Instr) (cs : List Char) :
    Option Instr :=
  match splitAtSep (· == ',') cs with
  | [x, y] => do
    let a ← first (trim x)
    let b ← second (trim y)
    return mk a b
  | _ => none

/-- One statement (R61). -/
def readStatement (cs : List Char) : Option Instr :=
  match trim cs with
  | 'L' :: 'O' :: 'A' :: 'D' :: ' ' :: rest => readOperands readReg readByte .load rest
  | 'S' :: 'T' :: 'O' :: 'R' :: 'E' :: ' ' :: rest => readOperands readReg readByte .store rest
  | 'A' :: 'D' :: 'D' :: ' ' :: rest => readOperands readReg readReg .add rest
  | 'S' :: 'U' :: 'B' :: ' ' :: rest => readOperands readReg readReg .sub rest
  | ['H', 'A', 'L', 'T'] => some .halt
  | _ => none

/-- What ends a statement: `;` or a line break (R61). DESIGN CHOICE (log 12): a line break is LF, CR or CR LF, which R61 and D14
leave open. In CR LF each character ends a statement, and the blank one between them is passed over. -/
def endsStatement (c : Char) : Bool := c == ';' || c == '\n' || c == '\r'

/-- The statements of a program text (R61); a blank one is passed over (DESIGN CHOICE, log 12). -/
def readProgram (cs : List Char) : Option (List Instr) :=
  (((splitAtSep endsStatement cs).map trim).filter (· ≠ [])).mapM readStatement

/-- The bytes of a program text (R61). -/
def assemble (cs : List Char) : Option (List Byte) := (readProgram cs).map fun is => is.flatMap encode

end Sys2Proof.Assembler
end

