-- ==== Sys2Proof/Machine/HostView.lean ====
section
/-! DEFINITION. What the host sees on the interfaces of R8: the numeric codes (R25, R27, R81; D7) and the observation at
the end of a run (R101). -/

namespace Sys2Proof.Machine

/-- The value of the `run_state` interface (R25). -/
def RunState.code : RunState → Nat
  | .running => 0
  | .halted => 1
  | .faulted => 2

/-- The kind code of the `fault` interface (R27, R81). -/
def FaultRecord.code : FaultRecord → Nat
  | .noFault => 0
  | .outOfRange _ _ => 1
  | .invalidOperand _ _ => 2
  | .unknownOpcode _ _ => 3

/-- What the host observes when a run ends (R101). -/
structure Observation where
  /-- All 256 cells, by rising address. -/
  cells : List Byte
  /-- The value of the `run_state` interface. -/
  runState : Nat
  /-- The fault record, meaningful when the run state is FAULTED (R8). -/
  fault : FaultRecord
  deriving DecidableEq, Repr

/-- The observation of R101. -/
def observe (s : State) : Observation where
  cells := (List.range Config.memorySize).map s.mem.read
  runState := s.run.code
  fault := s.fault

end Sys2Proof.Machine
end

