-- ==== Sys2Proof/Machine/Pseudocode.lean ====
section
/-! DEFINITION. The spec's own pseudocode of one step (R63, R66 to R78), in which each handler fetches its operand bytes
from memory itself. `step` splits the same work into fetch, decode and `exec`; that the two agree is an obligation. -/

namespace Sys2Proof.Machine.Pseudocode

/-- `Sel(FetchByte(a), a)`. -/
def sel (s : State) (a : Nat) : Except FaultRecord Reg := do
  let b ← s.fetchByte a
  selector b a

/-- A handler answers the state with its register or memory write made, and the `next` it returns. -/
abbrev Handler := State → Except FaultRecord (State × Nat)

/-- `LOAD_exec(pc)` of R73. -/
def loadExec (s : State) : Except FaultRecord (State × Nat) := do
  let r ← sel s (s.pc + 1)
  let a ← s.fetchByte (s.pc + 2)
  let v ← s.dataRead a.toNat
  return (s.setReg r v, s.pc + Config.instrLength)

/-- `STORE_exec(pc)` of R74. -/
def storeExec (s : State) : Except FaultRecord (State × Nat) := do
  let r ← sel s (s.pc + 1)
  let a ← s.fetchByte (s.pc + 2)
  let t ← s.dataWrite a.toNat (s.reg r)
  return (t, s.pc + Config.instrLength)

/-- `ADD_exec(pc)` of R77. -/
def addExec (s : State) : Except FaultRecord (State × Nat) := do
  let d ← sel s (s.pc + 1)
  let t ← sel s (s.pc + 2)
  return (s.setReg d (aluAdd (s.reg d) (s.reg t)), s.pc + Config.instrLength)

/-- `SUB_exec(pc)` of R78. -/
def subExec (s : State) : Except FaultRecord (State × Nat) := do
  let d ← sel s (s.pc + 1)
  let t ← sel s (s.pc + 2)
  return (s.setReg d (aluSub (s.reg d) (s.reg t)), s.pc + Config.instrLength)

/-- The fixed table of handlers, indexed by opcode (R14, R63): none for a reserved or unknown opcode (R67, R68). -/
def handler (op : Byte) : Option Handler :=
  if op = Config.opLoad then some loadExec
  else if op = Config.opStore then some storeExec
  else if op = Config.opAdd then some addExec
  else if op = Config.opSub then some subExec
  else none

/-- The body of `Step()` (R63), up to the first `raise`. -/
def body (s : State) : Except FaultRecord State := do
  let op ← s.fetchByte s.pc
  if op = Config.opHalt then
    return { s with run := .halted }
  else
    match handler op with
    | some h => do
      let (t, next) ← h s
      return { t with pc := next }
    | none => .error (.unknownOpcode op s.pc)

/-- `Step()` of R63, for a state whose run state is RUNNING; a `raise` ends it as R11 says. -/
def step (s : State) : State :=
  match body s with
  | .ok t => t
  | .error f => { s with run := .faulted, fault := f }

end Sys2Proof.Machine.Pseudocode
end

