-- ==== Sys2Proof/Machine/Run.lean ====
section
/-! DEFINITION. A run: steps while the core is RUNNING (R98, R100), under the harness's step limit (R102). -/

namespace Sys2Proof.Machine

/-- How a run, or a harness's attempt at one, comes out (R100, R102). -/
inductive RunEnd where
  /-- A normal end (R100). -/
  | halted (s : State)
  /-- An end that is not success (R100). -/
  | faulted (s : State)
  /-- The harness's limit was reached in RUNNING: the run has not ended (R102, D9). -/
  | outOfFuel (s : State)
  /-- A RUNNING state had no next state; this never happens. -/
  | stuck (s : State)
  deriving DecidableEq, Repr

/-- At most `n` steps from `s`, taken only while the core is RUNNING (R98). -/
def runFor : Nat → State → RunEnd
  | n, s =>
    match s.run with
    | .halted => .halted s
    | .faulted => .faulted s
    | .running =>
      match n with
      | 0 => .outOfFuel s
      | n + 1 =>
        match step s with
        | .next t => runFor n t
        | .fault _ => .stuck s
        | .refused _ => .stuck s

/-- `compute(image)` of R98: `start`, then steps until the core is not RUNNING. Without a limit it takes as many steps as
R72 says any run can need (log 13). -/
def compute (image : Vector Byte Config.memorySize) (limit : Option Nat := Config.stepLimit) : RunEnd :=
  runFor (limit.getD Config.runBound) (State.start image)

end Sys2Proof.Machine
end

