-- ==== Sys2Proof/Safety.lean ====
section
/-! DEFINITION. What the statements call a sound state, a reachable state and the end of a run. -/

namespace Sys2Proof.Machine

/-- The fault record is NONE exactly until the run state is FAULTED (R25, R27). -/
abbrev State.faultAgrees (s : State) : Prop := s.run = .faulted ↔ s.fault ≠ .noFault

/-- `pc` is one of the values `8 + 3k` with `k` in [0, 82] (R21). -/
def State.pcInPath (s : State) : Prop := ∃ k, k ≤ 82 ∧ s.pc = 8 + 3 * k

/-- The invariant of the core: the memory keeps its canonical form, the fault record agrees with the run state, and `pc` is
on the path of R21. -/
structure State.Sound (s : State) : Prop where
  /-- The memory is in canonical form. -/
  memory : s.mem.wf = true
  /-- The fault record agrees with the run state. -/
  record : s.faultAgrees
  /-- `pc` is on the path. -/
  path : s.pcInPath

/-- `t` comes from `s` by exactly so many steps. -/
inductive ReachesIn (s : State) : Nat → State → Prop where
  /-- No step. -/
  | refl : ReachesIn s 0 s
  /-- One step more. -/
  | step {n : Nat} {t u : State} : ReachesIn s n t → Machine.step t = .next u → ReachesIn s (n + 1) u

/-- `t` comes from `s` by some number of steps. -/
def Reaches (s t : State) : Prop := ∃ n, ReachesIn s n t

/-- A run's end (R100): HALTED is success, FAULTED is an end that is not success. -/
def RunEnd.ended : RunEnd → Prop
  | .halted s => s.run = .halted
  | .faulted s => s.run = .faulted
  | .outOfFuel _ => False
  | .stuck _ => False

/-- The two states differ in no register, not in `pc` and not in the run state or the fault record. -/
abbrev State.sameButMemory (s t : State) : Prop :=
  s.pc = t.pc ∧ s.r1 = t.r1 ∧ s.r2 = t.r2 ∧ s.run = t.run ∧ s.fault = t.fault

/-- The selector byte `b` names register `r` (R17). -/
abbrev Names (b : Byte) (r : Reg) : Prop := (b = 0x01 ∧ r = .r1) ∨ (b = 0x02 ∧ r = .r2)

/-- Address `a` lies in the instruction window [8, 256) (R32): in the spec's numbers, as the statements give them, beside
`Config.InstrWindow`, which the model uses. -/
abbrev InWindow (a : Nat) : Prop := 8 ≤ a ∧ a < 256

/-- The instruction has a form in assembler text (R61): it is one of the five of the base set and its selectors name
registers. A reserved or unknown opcode has none (R57; row 2 of 93_implementation_defined.md). -/
def HasAssemblerForm : Instr → Prop
  | .load s _ => s = 0x01 ∨ s = 0x02
  | .store s _ => s = 0x01 ∨ s = 0x02
  | .add d t => (d = 0x01 ∨ d = 0x02) ∧ (t = 0x01 ∨ t = 0x02)
  | .sub d t => (d = 0x01 ∨ d = 0x02) ∧ (t = 0x01 ∨ t = 0x02)
  | .halt => True
  | .reservedAddi | .reservedSubi | .reservedJump | .reservedBeqz => False
  | .unknown _ => False

/-- The bytes of the `n` cells from `a` on. -/
def Memory.bytesAt (m : Memory) (a n : Nat) : List Byte := (List.range n).map fun k => m.read (a + k)

end Sys2Proof.Machine
end

