-- ==== Sys2Proof/Certificates/Slice0/Obligations.lean ====
section
/-! DEFINITION. The statements for the provers, in the order of OBLIGATIONS.json. A statement whose docstring names a
decision D<n> rests on a choice that the spec marks as its own and not the source's; one that names a log entry rests on a
choice of the model. -/

open Sys2Proof Sys2Proof.Machine

/-! ### Encoding -/

/-- Decoding the encoding of a well-formed instruction gives it back, whatever bytes follow (R50, R51). -/
def Obligations.DecodeUndoesEncode : Prop :=
  ∀ (i : Instr) (rest : List Byte), i.wellFormed = true → decode (encode i ++ rest) = .ok (i, rest)

/-- Whatever the decoder answers is a well-formed instruction whose encoding, and then the rest, are the bytes it was
given: each byte sequence has one meaning and no byte is dropped (R50, R51, R52). -/
def Obligations.EncodeUndoesDecode : Prop :=
  ∀ (bs : List Byte) (i : Instr) (rest : List Byte), decode bs = .ok (i, rest) →
    i.wellFormed = true ∧ encode i ++ rest = bs

/-- The decoder refuses a stream only when it is cut short: no opcode byte, or fewer than two bytes after one of the four
opcodes of 3-byte instructions. R50 gives the lengths; that a cut stream is refused, under these names, is the model's
reading (log 3, DEDUCED): the core itself raises OutOfRange where an operand fetch leaves the window. -/
def Obligations.DecoderRefusesOnlyCutStreams : Prop :=
  ∀ (bs : List Byte) (e : DecodeError), decode bs = .error e ↔
    (bs = [] ∧ e = .missingOpcode) ∨
      ∃ op rest, bs = op :: rest ∧ (op = 0x01 ∨ op = 0x02 ∨ op = 0x03 ∨ op = 0x04) ∧ rest.length < 2 ∧
        e = .missingOperands op

/-- Words written out from the spec's examples and formats decode to the instructions they stand for, as bytes and as numbers
of the opcode table. The table's numbering is log 5. -/
def Obligations.WrittenOutWordsDecode : Prop :=
  decode [0x01, 0x02, 0x03] = .ok (.load 0x02 0x03, []) ∧ decode [0x02, 0x01, 0x02] = .ok (.store 0x01 0x02, []) ∧
    decode [0x03, 0x01, 0x02] = .ok (.add 0x01 0x02, []) ∧ decode [0x04, 0x01, 0x02] = .ok (.sub 0x01 0x02, []) ∧
    decode [0xFF] = .ok (.halt, []) ∧ decode [0x07, 0x08, 0x00] = .ok (.reservedJump, [0x08, 0x00]) ∧
    decode [0xFE] = .ok (.unknown 0xFE, []) ∧
    decodeTableWord 24 0x040102 = some (.sub 0x01 0x02) ∧ decodeTableWord 8 0xFF = some .halt

/-- The encoding of an instruction has 3 bytes for the four handler opcodes, and 1 byte for HALT and for an opcode byte without a
handler; the decoder and the fetch count the same operand bytes after the opcode (R50). -/
def Obligations.EncodingHasItsLength : Prop :=
  (∀ i : Instr, (encode i).length = i.length) ∧
  (∀ a b : Byte, (Instr.load a b).length = 3 ∧ (Instr.store a b).length = 3 ∧ (Instr.add a b).length = 3 ∧
    (Instr.sub a b).length = 3) ∧
  Instr.halt.length = 1 ∧ (∀ op : Byte, (Instr.unknown op).length = 1) ∧ Instr.reservedAddi.length = 1 ∧
  Instr.reservedSubi.length = 1 ∧ Instr.reservedJump.length = 1 ∧ Instr.reservedBeqz.length = 1 ∧
  ∀ (i : Instr) (op : Byte) (rest : List Byte), i.wellFormed = true → encode i = op :: rest → operandCount op = rest.length

/-- What the assembler prints it reads back (R61; the accepted spellings are D14 and log 12). -/
def Obligations.AssemblerReadsWhatItPrints : Prop :=
  ∀ (i : Instr) (cs : List Char), Assembler.print i = some cs → Assembler.readStatement cs = some i

/-- The assembler prints an instruction, and reads some text as it, exactly when it is one of the five of the base set and its
selectors name registers: no text stands for a reserved or unknown opcode (R57, R61, row 2 of 93_implementation_defined.md;
the accepted spellings are D14 and log 12). -/
def Obligations.AssemblerFormsAreTheFive : Prop :=
  ∀ i : Instr, ((∃ cs, Assembler.print i = some cs) ↔ HasAssemblerForm i) ∧
    ((∃ cs, Assembler.readStatement cs = some i) ↔ HasAssemblerForm i)

/-! ### Operands and the ALU -/

/-- A selector byte decodes to R1 or R2 or raises InvalidOperand (R53). The fields of InvalidOperand are decision D6. -/
def Obligations.SelectorNamesR1OrR2 : Prop :=
  ∀ (b : Byte) (a : Nat), (b = 0x01 → selector b a = .ok .r1) ∧ (b = 0x02 → selector b a = .ok .r2) ∧
    (b ≠ 0x01 → b ≠ 0x02 → selector b a = .error (.invalidOperand b a))

/-- The ALU's two functions (R76). -/
def Obligations.AluWrapsModulo256 : Prop :=
  ∀ a b : Byte, (aluAdd a b).toNat = (a.toNat + b.toNat) % 256 ∧ (aluSub a b).toNat = (a.toNat + 256 - b.toNat) % 256

/-- Read as signed bytes, the ALU's results are the two's-complement sum and difference (R80, which the spec derives). -/
def Obligations.AluIsTwosComplement : Prop :=
  ∀ a b : Byte, (aluAdd a b).toInt = (a.toInt + b.toInt).bmod 256 ∧ (aluSub a b).toInt = (a.toInt - b.toInt).bmod 256

/-! ### Memory and the bounds checker -/

/-- `FetchByte` reads a cell of the instruction window and raises OutOfRange elsewhere (R33). The record is decision D5. -/
def Obligations.FetchByteStaysInItsWindow : Prop :=
  ∀ (s : State) (a : Nat), (8 ≤ a ∧ a < 256 → s.fetchByte a = .ok (s.mem.read a)) ∧
    (a < 8 ∨ 256 ≤ a → s.fetchByte a = .error (.outOfRange a .fetch))

/-- `DataRead` and `DataWrite` reach the cell they name in the data window, and raise OutOfRange elsewhere (R34). The record is
decision D5. -/
def Obligations.DataAccessStaysInItsWindow : Prop :=
  ∀ (s : State) (a : Nat) (v : Byte),
    (a < 8 → s.dataRead a = .ok (s.mem.read a)) ∧ (8 ≤ a → s.dataRead a = .error (.outOfRange a .dataRead)) ∧
    (8 ≤ a → s.dataWrite a v = .error (.outOfRange a .dataWrite)) ∧
    (a < 8 → s.mem.wf = true → ∃ t, s.dataWrite a v = .ok t ∧ t = { s with mem := t.mem } ∧
      t.mem.read a = v ∧ ∀ x, x ≠ a → t.mem.read x = s.mem.read x)

/-- Memories in canonical form that hold the same 256 bytes are the same memory. The 256 cells are the spec's (R15, R31); the
canonical form is the model's choice (log 4, DESIGN CHOICE), of which this is the check. -/
def Obligations.SameCellsSameMemory : Prop :=
  ∀ m n : Memory, m.wf = true → n.wf = true → (∀ a, a < 256 → m.read a = n.read a) → m = n

/-! ### What the instructions do -/

/-- LOAD with a selector of R1 or R2 and a data address below 8 copies the cell into that register and moves `pc` on by 3 (R73). That
`pc + 3` does not wrap is the spec's decision D8 (log 6). -/
def Obligations.LoadCopiesCellIntoRegister : Prop :=
  ∀ (s : State) (a : Byte), InWindow (s.pc + 1) → InWindow (s.pc + 2) → a.toNat < 8 →
    exec (.load 0x01 a) s = .next { s with r1 := s.mem.read a.toNat, pc := s.pc + 3 } ∧
      exec (.load 0x02 a) s = .next { s with r2 := s.mem.read a.toNat, pc := s.pc + 3 }

/-- STORE with a selector of R1 or R2 and a data address below 8 copies that register into the cell, leaves every other
cell, and moves `pc` on by 3 (R74). That
`pc + 3` does not wrap is the spec's decision D8 (log 6). -/
def Obligations.StoreCopiesRegisterIntoCell : Prop :=
  ∀ (s : State) (a : Byte), s.mem.wf = true → InWindow (s.pc + 1) → InWindow (s.pc + 2) → a.toNat < 8 →
    (∃ m : Memory, exec (.store 0x01 a) s = .next { s with mem := m, pc := s.pc + 3 } ∧
      m.wf = true ∧ m.read a.toNat = s.r1 ∧ ∀ x, x ≠ a.toNat → m.read x = s.mem.read x) ∧
    (∃ m : Memory, exec (.store 0x02 a) s = .next { s with mem := m, pc := s.pc + 3 } ∧
      m.wf = true ∧ m.read a.toNat = s.r2 ∧ ∀ x, x ≠ a.toNat → m.read x = s.mem.read x)

/-- ADD with two selectors puts the sum modulo 256 of the two registers into the first and moves `pc` on by 3 (R77). That
`pc + 3` does not wrap is the spec's decision D8 (log 6). -/
def Obligations.AddPutsSumInFirstRegister : Prop :=
  ∀ s : State, InWindow (s.pc + 1) → InWindow (s.pc + 2) →
    exec (.add 0x01 0x01) s = .next { s with r1 := BitVec.ofNat 8 ((s.r1.toNat + s.r1.toNat) % 256), pc := s.pc + 3 } ∧
    exec (.add 0x01 0x02) s = .next { s with r1 := BitVec.ofNat 8 ((s.r1.toNat + s.r2.toNat) % 256), pc := s.pc + 3 } ∧
    exec (.add 0x02 0x01) s = .next { s with r2 := BitVec.ofNat 8 ((s.r2.toNat + s.r1.toNat) % 256), pc := s.pc + 3 } ∧
    exec (.add 0x02 0x02) s = .next { s with r2 := BitVec.ofNat 8 ((s.r2.toNat + s.r2.toNat) % 256), pc := s.pc + 3 }

/-- SUB with two selectors puts the difference modulo 256 of the first register and the second into the first and moves `pc` on
by 3 (R78). That
`pc + 3` does not wrap is the spec's decision D8 (log 6). -/
def Obligations.SubPutsDifferenceInFirstRegister : Prop :=
  ∀ s : State, InWindow (s.pc + 1) → InWindow (s.pc + 2) →
    exec (.sub 0x01 0x01) s =
      .next { s with r1 := BitVec.ofNat 8 ((s.r1.toNat + 256 - s.r1.toNat) % 256), pc := s.pc + 3 } ∧
    exec (.sub 0x01 0x02) s =
      .next { s with r1 := BitVec.ofNat 8 ((s.r1.toNat + 256 - s.r2.toNat) % 256), pc := s.pc + 3 } ∧
    exec (.sub 0x02 0x01) s =
      .next { s with r2 := BitVec.ofNat 8 ((s.r2.toNat + 256 - s.r1.toNat) % 256), pc := s.pc + 3 } ∧
    exec (.sub 0x02 0x02) s =
      .next { s with r2 := BitVec.ofNat 8 ((s.r2.toNat + 256 - s.r2.toNat) % 256), pc := s.pc + 3 }

/-- One register as both operands: ADD doubles it modulo 256 and SUB clears it (R79, which the spec derives). -/
def Obligations.SameRegisterDoublesOrClears : Prop :=
  ∀ (s : State) (b : Byte) (r : Reg), InWindow (s.pc + 1) → InWindow (s.pc + 2) → Names b r →
    (∃ t, exec (.add b b) s = .next t ∧ (t.reg r).toNat = 2 * (s.reg r).toNat % 256) ∧
      (∃ t, exec (.sub b b) s = .next t ∧ t.reg r = 0)

/-- HALT makes the run state HALTED and changes nothing else, wherever it stands: as an instruction in hand, and as the byte
0xFF at `pc` (R66). -/
def Obligations.HaltStopsTheRun : Prop :=
  (∀ s : State, exec .halt s = .next { s with run := .halted }) ∧
    ∀ s : State, s.run = .running → InWindow s.pc → s.mem.read s.pc = 0xFF → step s = .next { s with run := .halted }

/-- An opcode byte without a handler raises UnknownOpcode with that byte and `pc`, and nothing else changes: as an
instruction in hand, and as the byte at `pc`, whatever follows it (R67, R84). -/
def Obligations.UnknownOpcodeFaults : Prop :=
  (∀ (s : State) (op : Byte),
    exec (.unknown op) s = .next { s with run := .faulted, fault := .unknownOpcode op s.pc }) ∧
  ∀ (s : State) (op : Byte), s.run = .running → InWindow s.pc → s.mem.read s.pc = op →
    op ∉ ([0x01, 0x02, 0x03, 0x04, 0xFF] : List Byte) →
    step s = .next { s with run := .faulted, fault := .unknownOpcode op s.pc }

/-- The reserved opcodes 0x05 to 0x08 raise UnknownOpcode with their byte and `pc`, and do nothing else (R68). -/
def Obligations.ReservedOpcodesFault : Prop :=
  ∀ s : State,
    exec .reservedAddi s = .next { s with run := .faulted, fault := .unknownOpcode 0x05 s.pc } ∧
    exec .reservedSubi s = .next { s with run := .faulted, fault := .unknownOpcode 0x06 s.pc } ∧
    exec .reservedJump s = .next { s with run := .faulted, fault := .unknownOpcode 0x07 s.pc } ∧
    exec .reservedBeqz s = .next { s with run := .faulted, fault := .unknownOpcode 0x08 s.pc } ∧
    (s.run = .running → InWindow s.pc →
      s.mem.read s.pc = 0x05 ∨ s.mem.read s.pc = 0x06 ∨ s.mem.read s.pc = 0x07 ∨ s.mem.read s.pc = 0x08 →
      step s = .next { s with run := .faulted, fault := .unknownOpcode (s.mem.read s.pc) s.pc })

/-! ### The order of the checks

The order of the checks inside a handler is decision D3, the fields of the records are D5 and D6, that a fault writes
nothing is D4, and that the sums do not wrap is D8. -/

/-- LOAD and STORE raise the first fault that applies of: the fetch at `pc + 1`, the selector, the fetch at `pc + 2`, the data
access (R73, R74, R86; D3, D4, D5, D6, D8). -/
def Obligations.LoadAndStoreCheckInOrder : Prop :=
  ∀ (s : State) (b a : Byte),
    (¬InWindow (s.pc + 1) →
      exec (.load b a) s = .next { s with run := .faulted, fault := .outOfRange (s.pc + 1) .fetch } ∧
      exec (.store b a) s = .next { s with run := .faulted, fault := .outOfRange (s.pc + 1) .fetch }) ∧
    (InWindow (s.pc + 1) → b ≠ 0x01 → b ≠ 0x02 →
      exec (.load b a) s = .next { s with run := .faulted, fault := .invalidOperand b (s.pc + 1) } ∧
      exec (.store b a) s = .next { s with run := .faulted, fault := .invalidOperand b (s.pc + 1) }) ∧
    (InWindow (s.pc + 1) → b = 0x01 ∨ b = 0x02 → ¬InWindow (s.pc + 2) →
      exec (.load b a) s = .next { s with run := .faulted, fault := .outOfRange (s.pc + 2) .fetch } ∧
      exec (.store b a) s = .next { s with run := .faulted, fault := .outOfRange (s.pc + 2) .fetch }) ∧
    (InWindow (s.pc + 1) → b = 0x01 ∨ b = 0x02 → InWindow (s.pc + 2) → 8 ≤ a.toNat →
      exec (.load b a) s = .next { s with run := .faulted, fault := .outOfRange a.toNat .dataRead } ∧
      exec (.store b a) s = .next { s with run := .faulted, fault := .outOfRange a.toNat .dataWrite })

/-- ADD and SUB raise the first fault that applies of: the fetch at `pc + 1`, its selector, the fetch at `pc + 2`, its selector
(R77, R78, R86; D3, D4, D5, D6, D8). -/
def Obligations.AddAndSubCheckInOrder : Prop :=
  ∀ (s : State) (d t : Byte),
    (¬InWindow (s.pc + 1) →
      exec (.add d t) s = .next { s with run := .faulted, fault := .outOfRange (s.pc + 1) .fetch } ∧
      exec (.sub d t) s = .next { s with run := .faulted, fault := .outOfRange (s.pc + 1) .fetch }) ∧
    (InWindow (s.pc + 1) → d ≠ 0x01 → d ≠ 0x02 →
      exec (.add d t) s = .next { s with run := .faulted, fault := .invalidOperand d (s.pc + 1) } ∧
      exec (.sub d t) s = .next { s with run := .faulted, fault := .invalidOperand d (s.pc + 1) }) ∧
    (InWindow (s.pc + 1) → d = 0x01 ∨ d = 0x02 → ¬InWindow (s.pc + 2) →
      exec (.add d t) s = .next { s with run := .faulted, fault := .outOfRange (s.pc + 2) .fetch } ∧
      exec (.sub d t) s = .next { s with run := .faulted, fault := .outOfRange (s.pc + 2) .fetch }) ∧
    (InWindow (s.pc + 1) → d = 0x01 ∨ d = 0x02 → InWindow (s.pc + 2) → t ≠ 0x01 → t ≠ 0x02 →
      exec (.add d t) s = .next { s with run := .faulted, fault := .invalidOperand t (s.pc + 2) } ∧
      exec (.sub d t) s = .next { s with run := .faulted, fault := .invalidOperand t (s.pc + 2) })

/-- With all its operand bytes in the window, an instruction ends in FAULTED exactly when it is not legal: a reserved or unknown
opcode, a selector that names no register, or a data address of 8 or more (R58). -/
def Obligations.ExactlyIllegalInstructionsFault : Prop :=
  ∀ (s : State) (i : Instr), s.run = .running → InWindow (s.pc + 1) → InWindow (s.pc + 2) →
    ∃ t, exec i s = .next t ∧ (t.run = .faulted ↔ i.legal = false)

/-! ### Frames -/

/-- LOAD, ADD and SUB write at most the register their first operand byte names: the other register, every byte of memory and,
unless they fault, the run state and the fault record are unchanged (R18, R73, R77, R78). -/
def Obligations.RegisterInstructionsFrame : Prop :=
  ∀ (s t : State) (d b : Byte),
    exec (.load d b) s = .next t ∨ exec (.add d b) s = .next t ∨ exec (.sub d b) s = .next t →
    (d ≠ 0x01 → t.r1 = s.r1) ∧ (d ≠ 0x02 → t.r2 = s.r2) ∧ (∀ x, t.mem.read x = s.mem.read x) ∧
      (t.run ≠ .faulted → t.run = s.run ∧ t.fault = s.fault)

/-- STORE writes at most the cell that its address operand gives: both registers, every other byte of memory and, unless it
faults, the run state and the fault record are unchanged; where the address operand gives no address, no byte of memory
changes (R18, R74). -/
def Obligations.StoreFrame : Prop :=
  ∀ (s t : State) (b1 b2 : Byte), exec (.store b1 b2) s = .next t →
    t.r1 = s.r1 ∧ t.r2 = s.r2 ∧
      (∀ a, addressOperand s.pc 2 b2 = .ok a → ∀ x, x ≠ a → t.mem.read x = s.mem.read x) ∧
      (∀ f, addressOperand s.pc 2 b2 = .error f → ∀ x, t.mem.read x = s.mem.read x) ∧
      (t.run ≠ .faulted → t.run = s.run ∧ t.fault = s.fault)

/-- HALT and the opcode bytes without a handler change no register, no byte of memory and not `pc`; HALT leaves the fault record
too (R66, R67, R68). -/
def Obligations.ControlInstructionsFrame : Prop :=
  ∀ (s t : State) (i : Instr) (op : Byte),
    i ∈ [.halt, .reservedAddi, .reservedSubi, .reservedJump, .reservedBeqz, .unknown op] → exec i s = .next t →
    t.r1 = s.r1 ∧ t.r2 = s.r2 ∧ t.pc = s.pc ∧ (∀ x, t.mem.read x = s.mem.read x) ∧
      (i = .halt → t.fault = s.fault) ∧ (i ≠ .halt → t.run = .faulted)

/-! ### The step -/

/-- A RUNNING step runs the decoded instruction: when the bytes from `pc` on, all in the instruction window, decode to `i`, the
step is `exec i` (R63, R64). Nothing is added around it: the meaning itself moves `pc`. -/
def Obligations.StepRunsDecodedInstruction : Prop :=
  ∀ (s : State) (i : Instr), s.run = .running → 8 ≤ s.pc → s.pc + i.length ≤ 256 →
    decode (s.mem.bytesAt s.pc i.length) = .ok (i, []) → i.wellFormed = true → step s = exec i s

/-- With `pc` outside the instruction window the opcode fetch raises OutOfRange with `pc` (R64). The record is the spec's decision D5
(log 9), and that nothing else is written is D4 (log 8). -/
def Obligations.OpcodeFetchOutsideWindowFaults : Prop :=
  ∀ s : State, s.run = .running → ¬InWindow s.pc →
    step s = .next { s with run := .faulted, fault := .outOfRange s.pc .fetch }

/-- An opcode of a 3-byte instruction at `pc` = 254 or 255 ends the run. At 254 (R72, and orders 5 and 6 of R86) it is InvalidOperand if
the byte at 255 is no selector, and OutOfRange at 256 otherwise; at 255 (order 4 of R86) it is OutOfRange at 256. The order of the
checks is the spec's decision D3 (log 7), that nothing else is written is D4 (log 8), the fields of the records are D5 and D6
(log 9), and that the address 256 does not wrap is D8 (log 6). -/
def Obligations.OperandFetchPastTheTopFaults : Prop :=
  ∀ s : State, s.run = .running → s.mem.read s.pc ∈ ([0x01, 0x02, 0x03, 0x04] : List Byte) →
    (s.pc = 254 → s.mem.read 255 = 0x01 ∨ s.mem.read 255 = 0x02 →
      step s = .next { s with run := .faulted, fault := .outOfRange 256 .fetch }) ∧
    (s.pc = 254 → s.mem.read 255 ≠ 0x01 → s.mem.read 255 ≠ 0x02 →
      step s = .next { s with run := .faulted, fault := .invalidOperand (s.mem.read 255) 255 }) ∧
    (s.pc = 255 → step s = .next { s with run := .faulted, fault := .outOfRange 256 .fetch })

/-- The step, which fetches, decodes and then executes, is the spec's pseudocode, in which each handler fetches its own operand
bytes from memory: in every RUNNING state (R63, R65, R73, R74, R77, R78). The next state rests on decisions of the spec: the
order of the checks is D3 (log 7), that a fault writes nothing else is D4 (log 8), the fields of the records are D5 and D6
(log 9), and that the sums do not wrap is D8 (log 6). -/
def Obligations.StepFollowsThePseudocode : Prop :=
  ∀ s : State, s.run = .running → step s = .next (Pseudocode.step s)

/-- Every RUNNING state has a next state: the step is never stuck and never refused (R7, R63). -/
def Obligations.EveryRunningStepHasANextState : Prop :=
  ∀ s : State, s.run = .running → ∃ t, step s = .next t

/-- When the run state is HALTED or FAULTED there is no step (R26). That the model answers the Lean fault `stopped` is its own
choice (log 2). -/
def Obligations.NoStepAfterTheEnd : Prop :=
  ∀ s : State, s.run ≠ .running → step s = .fault (.stopped s.run)

/-- The run state's transitions (R25): a step starts in RUNNING, ends in HALTED exactly for the opcode byte 0xFF in the window,
and ends in FAULTED exactly when it has recorded a fault. The premise is part of `State.Sound`. -/
def Obligations.RunStateTransitions : Prop :=
  ∀ s t : State, s.faultAgrees → step s = .next t →
    s.run = .running ∧ (t.run = .halted ↔ InWindow s.pc ∧ s.mem.read s.pc = 0xFF) ∧
      (t.run = .faulted ↔ t.fault ≠ .noFault) ∧ (t.run = .running → t.fault = s.fault)

/-- `pc` changes in a step exactly when the run state stays RUNNING (R69), and then to `pc + 3` (R70). That the sum does not wrap,
in any state, is the spec's decision D8 (log 6). -/
def Obligations.PcMovesOnlyOnCompletion : Prop :=
  ∀ s t : State, step s = .next t →
    (t.run = .running ∧ t.pc = s.pc + 3) ∨ (t.run ≠ .running ∧ t.pc = s.pc)

/-- A step that ends in FAULTED writes the run state and a fault record and nothing else: faults are precise (R11, R88; D4). -/
def Obligations.FaultingStepWritesNothingElse : Prop :=
  ∀ s t : State, step s = .next t → t.run = .faulted →
    t.fault ≠ .noFault ∧ t = { s with run := .faulted, fault := t.fault }

/-- Where a step changes a byte of memory, the opcode at `pc` is STORE's, the cell is the one its address byte names, in the data
window, and the new byte is the selected register's (R15, R37, R74). -/
def Obligations.OnlyStoreChangesMemory : Prop :=
  ∀ (s t : State) (x : Nat), s.mem.wf = true → step s = .next t → t.mem.read x ≠ s.mem.read x →
    s.mem.read s.pc = 0x02 ∧ x = (s.mem.read (s.pc + 2)).toNat ∧ x < 8 ∧
      ∃ r, Names (s.mem.read (s.pc + 1)) r ∧ t.mem.read x = s.reg r

/-- No step, and so no run, changes a byte of the instruction window (R15, R47): from any state, over any number of steps. -/
def Obligations.ProgramBytesNeverChange : Prop :=
  ∀ s t : State, Reaches s t → ∀ a, 8 ≤ a → t.mem.read a = s.mem.read a

/-- A step depends on memory only through the data window and the three cells from `pc` on: states that agree there and in
everything else take steps that agree in everything but cells they did not read (R37, R60). -/
def Obligations.UnreadBytesDoNotMatter : Prop :=
  ∀ (s s' t : State), s.mem.wf = true → s'.mem.wf = true → s.sameButMemory s' →
    (∀ a, a < 8 ∨ (s.pc ≤ a ∧ a ≤ s.pc + 2) → s.mem.read a = s'.mem.read a) → step s = .next t →
    ∃ t', step s' = .next t' ∧ t.sameButMemory t' ∧ (∀ a, a < 8 → t.mem.read a = t'.mem.read a) ∧
      ∀ a, 8 ≤ a → t'.mem.read a = s'.mem.read a

/-- After STORE of a register to a data address, LOAD of that address gives the other end of the same byte: the register stored
(R75, which the spec derives), in any state in which the cell has not changed since. -/
def Obligations.LoadAfterStoreGivesTheStoredByte : Prop :=
  ∀ (s s1 s2 : State) (b b' a : Byte) (r r' : Reg), s.mem.wf = true → a.toNat < 8 → Names b r → Names b' r' →
    InWindow (s.pc + 1) → InWindow (s.pc + 2) → InWindow (s2.pc + 1) → InWindow (s2.pc + 2) →
    exec (.store b a) s = .next s1 → s2.mem.read a.toNat = s1.mem.read a.toNat →
    ∃ t, exec (.load b' a) s2 = .next t ∧ t.reg r' = s.reg r

/-! ### Reset, runs and the host -/

/-- At reset, and after `start` with any image, `pc` is 8 (R20). -/
def Obligations.ResetPcIsEight : Prop :=
  State.reset.pc = 8 ∧ ∀ image : Vector Byte 256, (State.start image).pc = 8

/-- `start` lays the host's image in the array byte for byte and gives every other piece of state its reset value (R30, R97; that
the record is NONE is D10). `State.reset` is `start` with the image of zero bytes, which is the model's choice (log 1). -/
def Obligations.StartLaysTheImage : Prop :=
  (∀ image : Vector Byte 256,
    (∀ (a : Nat) (h : a < 256), (State.start image).mem.read a = image[a]) ∧
      (State.start image).r1 = 0 ∧ (State.start image).r2 = 0 ∧ (State.start image).pc = 8 ∧
      (State.start image).run = .running ∧ (State.start image).fault = .noFault) ∧
  State.start (Vector.replicate 256 0) = State.reset

/-- The state after reset is sound. -/
def Obligations.ResetIsSound : Prop := State.reset.Sound

/-- The state after `start` is sound, whatever the image (R30, R21). -/
def Obligations.StartIsSound : Prop := ∀ image : Vector Byte 256, (State.start image).Sound

/-- Every step keeps soundness: the memory's canonical form, the agreement of fault record and run state (R25, R27), and `pc` on
the path `8 + 3k` with `k` at most 82 (R21, which the spec derives). -/
def Obligations.StepKeepsSound : Prop :=
  ∀ s t : State, s.Sound → step s = .next t → t.Sound

/-- Every run, of any image, ends in HALTED or FAULTED within 83 steps, and a step limit of 83 or more never fires (R72, which the
spec derives). That `compute` without a limit takes at most 83 steps is the model's reading of R72 (log 13, DEDUCED). -/
def Obligations.EveryRunEndsWithin83Steps : Prop :=
  ∀ (image : Vector Byte 256) (n : Nat), 83 ≤ n →
    (runFor n (State.start image)).ended ∧ compute image (some n) = compute image

/-- A harness's outcome is the run's own: `halted` and `faulted` carry a state with that run state that the run reached within
the limit, `outOfFuel` carries the state after exactly as many steps as the limit, still RUNNING, and no attempt is stuck (R98,
R100, R102; the out-of-fuel outcome is D9). Since no step leaves a state that is not RUNNING, the state reached is the run's
first such. -/
def Obligations.RunOutcomesTellTheTruth : Prop :=
  ∀ (n : Nat) (s : State),
    match runFor n s with
    | .halted t => t.run = .halted ∧ ∃ k, k ≤ n ∧ ReachesIn s k t
    | .faulted t => t.run = .faulted ∧ ∃ k, k ≤ n ∧ ReachesIn s k t
    | .outOfFuel t => t.run = .running ∧ ReachesIn s n t
    | .stuck _ => False

/-- The host sees all 256 cells in address order, the run state's number and the fault record (R101; the numbers of R25 and R81
are D7). -/
def Obligations.HostObservesMemoryRunStateAndFault : Prop :=
  (∀ s : State, (observe s).cells.length = 256 ∧ (∀ a, a < 256 → (observe s).cells[a]? = some (s.mem.read a)) ∧
    (observe s).fault = s.fault ∧
    (observe s).runState = match s.run with | .running => 0 | .halted => 1 | .faulted => 2) ∧
  (∀ (a : Nat) (b : Byte) (k : Access), FaultRecord.noFault.code = 0 ∧ (FaultRecord.outOfRange a k).code = 1 ∧
    (FaultRecord.invalidOperand b a).code = 2 ∧ (FaultRecord.unknownOpcode b a).code = 3)

/-- In a sound state `pc` lies in the instruction window and fits the source's 8-bit slot (R6, R19, R21, of which the spec derives the
last). -/
def Obligations.SoundPcFitsItsSlot : Prop :=
  ∀ s : State, s.Sound → InWindow s.pc ∧ s.pc < 2 ^ Config.pcWidth
end

