-- ==== Sys2Proof/Laws/Memory.lean ====
section
/-! SUPPORT. The memory's laws: every operation keeps the canonical form, a read after a write, and the contents of an
image. -/

namespace Sys2Proof.Machine

/-- The canonical form of a listed cell and what follows it. -/
theorem Memory.wfFrom_cons {lo a : Nat} {v : Byte} {m : Memory} :
    Memory.wfFrom lo ((a, v) :: m) = true ↔
      lo ≤ a ∧ a < 256 ∧ v ≠ 0 ∧ Memory.wfFrom (a + 1) m = true := by
  simp [Memory.wfFrom, and_assoc]

theorem Memory.wfFrom_mono {lo hi : Nat} (h : lo ≤ hi) :
    ∀ {m : Memory}, Memory.wfFrom hi m = true → Memory.wfFrom lo m = true
  | [], _ => rfl
  | (a, v) :: m, hm => by
    rw [Memory.wfFrom_cons] at hm ⊢
    exact ⟨by omega, hm.2⟩

theorem Memory.wfFrom_consCell {lo a : Nat} {v : Byte} {m : Memory} (hlo : lo ≤ a) (ha : a < 256)
    (hm : Memory.wfFrom (a + 1) m = true) : Memory.wfFrom lo (Memory.consCell a v m) = true := by
  unfold Memory.consCell
  split
  · exact Memory.wfFrom_mono (by omega) hm
  · rename_i hv
    exact Memory.wfFrom_cons.2 ⟨hlo, ha, hv, hm⟩

theorem Memory.wfFrom_write {a : Nat} {v : Byte} (ha : a < 256) :
    ∀ {lo : Nat} {m : Memory}, lo ≤ a → Memory.wfFrom lo m = true → Memory.wfFrom lo (m.write a v) = true
  | lo, [], hlo, _ => Memory.wfFrom_consCell hlo ha rfl
  | lo, (k, w) :: m, hlo, hm => by
    obtain ⟨h1, h2, h3, h4⟩ := Memory.wfFrom_cons.1 hm
    unfold Memory.write
    split
    · exact Memory.wfFrom_consCell hlo ha (Memory.wfFrom_cons.2 ⟨by omega, h2, h3, h4⟩)
    · split
      · subst a
        exact Memory.wfFrom_consCell hlo ha h4
      · exact Memory.wfFrom_cons.2 ⟨h1, h2, h3, Memory.wfFrom_write ha (by omega) h4⟩

/-- A write to a cell of the array keeps the canonical form. -/
theorem Memory.wf_write {m : Memory} {a : Nat} {v : Byte} (ha : a < 256) (hm : m.wf = true) :
    (m.write a v).wf = true :=
  Memory.wfFrom_write ha (Nat.zero_le a) hm

/-- Writing consecutive bytes keeps the canonical form, wherever they begin. -/
theorem Memory.wf_writeBytes : ∀ {bs : List Byte} {m : Memory} {a : Nat}, m.wf = true → (m.writeBytes a bs).wf = true
  | [], _, _, hm => hm
  | b :: bs, m, a, hm => by
    unfold Memory.writeBytes
    apply Memory.wf_writeBytes
    split
    · rename_i ha
      exact Memory.wf_write ha hm
    · exact hm

theorem Memory.wfFrom_ofBytes :
    ∀ {bs : List Byte} {lo : Nat}, lo + bs.length ≤ 256 → Memory.wfFrom lo (Memory.ofBytes lo bs) = true
  | [], _, _ => rfl
  | b :: bs, lo, h => by
    simp only [List.length_cons] at h
    exact Memory.wfFrom_consCell (Nat.le_refl lo) (by omega) (Memory.wfFrom_ofBytes (by omega))

/-- An image of 256 bytes is a memory in canonical form. -/
theorem Memory.wf_ofImage (image : Vector Byte 256) : (Memory.ofBytes 0 image.toList).wf = true :=
  Memory.wfFrom_ofBytes (by simp)

/-- The memory after reset is in canonical form. -/
theorem Memory.wf_reset : State.reset.mem.wf = true := rfl

@[simp] theorem Memory.read_nil (a : Nat) : Memory.read [] a = 0 := rfl

theorem Memory.read_cons (k : Nat) (v : Byte) (m : Memory) (a : Nat) :
    Memory.read ((k, v) :: m) a = if a = k then v else Memory.read m a := rfl

/-- Nothing is listed below the first address. -/
theorem Memory.read_below {a : Nat} :
    ∀ {lo : Nat} {m : Memory}, Memory.wfFrom lo m = true → a < lo → m.read a = 0
  | _, [], _, _ => rfl
  | lo, (k, v) :: m, hm, ha => by
    obtain ⟨h1, _, _, h4⟩ := Memory.wfFrom_cons.1 hm
    rw [Memory.read_cons, if_neg (by omega)]
    exact Memory.read_below h4 (by omega)

theorem Memory.read_consCell_self {lo a : Nat} {v : Byte} {m : Memory} (hm : Memory.wfFrom lo m = true)
    (ha : a < lo) : (Memory.consCell a v m).read a = v := by
  unfold Memory.consCell
  split
  · rename_i hv
    rw [hv]
    exact Memory.read_below hm ha
  · simp [Memory.read_cons]

theorem Memory.read_consCell_other {a b : Nat} {v : Byte} {m : Memory} (h : b ≠ a) :
    (Memory.consCell a v m).read b = m.read b := by
  unfold Memory.consCell
  split
  · rfl
  · rw [Memory.read_cons, if_neg h]

theorem Memory.read_write_selfFrom {a : Nat} {v : Byte} :
    ∀ {lo : Nat} {m : Memory}, Memory.wfFrom lo m = true → (m.write a v).read a = v
  | _, [], _ => Memory.read_consCell_self (lo := a + 1) rfl (by omega)
  | lo, (k, w) :: m, hm => by
    obtain ⟨h1, h2, h3, h4⟩ := Memory.wfFrom_cons.1 hm
    unfold Memory.write
    split
    · rename_i hk
      exact Memory.read_consCell_self (lo := k) (Memory.wfFrom_cons.2 ⟨by omega, h2, h3, h4⟩) hk
    · split
      · subst a
        exact Memory.read_consCell_self h4 (by omega)
      · rename_i hne
        rw [Memory.read_cons, if_neg hne]
        exact Memory.read_write_selfFrom h4

/-- A read after a write to the same cell gives the byte written (R44). -/
theorem Memory.read_write_self {m : Memory} {a : Nat} {v : Byte} (hm : m.wf = true) : (m.write a v).read a = v :=
  Memory.read_write_selfFrom hm

/-- A write leaves every other cell alone (R36). -/
theorem Memory.read_write_other {a b : Nat} {v : Byte} (h : b ≠ a) :
    ∀ {m : Memory}, (m.write a v).read b = m.read b
  | [] => Memory.read_consCell_other h
  | (k, w) :: m => by
    unfold Memory.write
    split
    · exact Memory.read_consCell_other h
    · split
      · subst a
        rw [Memory.read_consCell_other h, Memory.read_cons, if_neg h]
      · rw [Memory.read_cons, Memory.read_cons, Memory.read_write_other h]

/-- Cell `lo + k` of an image laid from `lo` on holds its `k`th byte. -/
theorem Memory.read_ofBytes :
    ∀ {bs : List Byte} {lo k : Nat} (h : k < bs.length), lo + bs.length ≤ 256 →
      (Memory.ofBytes lo bs).read (lo + k) = bs[k]
  | [], _, _, h, _ => absurd h (by simp)
  | b :: bs, lo, k, h, hl => by
    simp only [List.length_cons] at h hl
    unfold Memory.ofBytes
    cases k with
    | zero => exact Memory.read_consCell_self (Memory.wfFrom_ofBytes (by omega)) (by omega)
    | succ k =>
      rw [Memory.read_consCell_other (by omega), show lo + (k + 1) = lo + 1 + k by omega]
      exact Memory.read_ofBytes (by omega) (by omega)

end Sys2Proof.Machine
end

