-- ==== Sys2Proof/Laws/State.lean ====
section
/-! SUPPORT. One lemma per field per update of the state, so that no later proof unfolds a record update. -/

namespace Sys2Proof.Machine

/-- The register file has as many general registers as R6 gives it, and no other (R16, R28). -/
theorem Reg.all : [Reg.r1, Reg.r2].length = Config.registerCount ∧ ∀ r : Reg, r ∈ [Reg.r1, Reg.r2] :=
  ⟨rfl, by intro r; cases r <;> simp⟩

variable (s : State) (r : Reg) (v : Byte) (f : FaultRecord)

@[simp] theorem State.setReg_mem : (s.setReg r v).mem = s.mem := by cases r <;> rfl
@[simp] theorem State.setReg_pc : (s.setReg r v).pc = s.pc := by cases r <;> rfl
@[simp] theorem State.setReg_run : (s.setReg r v).run = s.run := by cases r <;> rfl
@[simp] theorem State.setReg_fault : (s.setReg r v).fault = s.fault := by cases r <;> rfl
@[simp] theorem State.setReg_r1_r1 : (s.setReg .r1 v).r1 = v := rfl
@[simp] theorem State.setReg_r1_r2 : (s.setReg .r1 v).r2 = s.r2 := rfl
@[simp] theorem State.setReg_r2_r1 : (s.setReg .r2 v).r1 = s.r1 := rfl
@[simp] theorem State.setReg_r2_r2 : (s.setReg .r2 v).r2 = v := rfl

@[simp] theorem State.reg_r1 : s.reg .r1 = s.r1 := rfl
@[simp] theorem State.reg_r2 : s.reg .r2 = s.r2 := rfl

theorem State.reg_setReg_same : (s.setReg r v).reg r = v := by cases r <;> rfl

theorem State.reg_setReg_other {r q : Reg} (h : q ≠ r) : (s.setReg r v).reg q = s.reg q := by
  cases r <;> cases q <;> first | rfl | exact absurd rfl h

@[simp] theorem State.advance_mem : s.advance.mem = s.mem := rfl
@[simp] theorem State.advance_pc : s.advance.pc = s.pc + 3 := rfl
@[simp] theorem State.advance_r1 : s.advance.r1 = s.r1 := rfl
@[simp] theorem State.advance_r2 : s.advance.r2 = s.r2 := rfl
@[simp] theorem State.advance_reg : s.advance.reg r = s.reg r := by cases r <;> rfl
@[simp] theorem State.advance_run : s.advance.run = s.run := rfl
@[simp] theorem State.advance_fault : s.advance.fault = s.fault := rfl

@[simp] theorem State.raise_mem : (s.raise f).mem = s.mem := rfl
@[simp] theorem State.raise_pc : (s.raise f).pc = s.pc := rfl
@[simp] theorem State.raise_r1 : (s.raise f).r1 = s.r1 := rfl
@[simp] theorem State.raise_r2 : (s.raise f).r2 = s.r2 := rfl
@[simp] theorem State.raise_reg : (s.raise f).reg r = s.reg r := by cases r <;> rfl
@[simp] theorem State.raise_run : (s.raise f).run = .faulted := rfl
@[simp] theorem State.raise_fault : (s.raise f).fault = f := rfl

@[simp] theorem State.reset_mem : State.reset.mem = [] := rfl
@[simp] theorem State.reset_pc : State.reset.pc = 8 := rfl
@[simp] theorem State.reset_r1 : State.reset.r1 = 0 := rfl
@[simp] theorem State.reset_r2 : State.reset.r2 = 0 := rfl
@[simp] theorem State.reset_run : State.reset.run = .running := rfl
@[simp] theorem State.reset_fault : State.reset.fault = .noFault := rfl

variable (image : Vector Byte 256)

@[simp] theorem State.start_mem : (State.start image).mem = Memory.ofBytes 0 image.toList := rfl
@[simp] theorem State.start_pc : (State.start image).pc = 8 := rfl
@[simp] theorem State.start_r1 : (State.start image).r1 = 0 := rfl
@[simp] theorem State.start_r2 : (State.start image).r2 = 0 := rfl
@[simp] theorem State.start_run : (State.start image).run = .running := rfl
@[simp] theorem State.start_fault : (State.start image).fault = .noFault := rfl

end Sys2Proof.Machine
end

