-- ==== Sys2Proof/Laws/Ops.lean ====
section
/-! SUPPORT. For each shared operation, once, everything it can do. -/

namespace Sys2Proof.Machine

variable {s t : State} {a k : Nat} {b v : Byte} {r : Reg} {f : FaultRecord}

/-- A computation in sequence answers when both parts do. -/
theorem bind_ok {α β : Type} {x : Except FaultRecord α} {g : α → Except FaultRecord β} {c : β} :
    (x >>= g) = .ok c ↔ ∃ y, x = .ok y ∧ g y = .ok c := by
  cases x <;> simp [bind, Except.bind]

/-- A computation in sequence raises what its first failing part raises. -/
theorem bind_error {α β : Type} {x : Except FaultRecord α} {g : α → Except FaultRecord β} :
    (x >>= g) = .error f ↔ x = .error f ∨ ∃ y, x = .ok y ∧ g y = .error f := by
  cases x <;> simp [bind, Except.bind]

@[simp] theorem pure_ok {α : Type} {x y : α} : (pure x : Except FaultRecord α) = .ok y ↔ y = x := by
  simp [pure, Except.pure, eq_comm]

@[simp] theorem pure_error {α : Type} {x : α} : (pure x : Except FaultRecord α) = .error f ↔ False := by
  simp [pure, Except.pure]

/-- What `FetchByte` answers (R33). -/
theorem State.fetchByte_ok : s.fetchByte a = .ok b ↔ (8 ≤ a ∧ a < 256) ∧ s.mem.read a = b := by
  unfold State.fetchByte
  split <;> simp_all

/-- When `FetchByte` raises, and what (R33, R82). -/
theorem State.fetchByte_error : s.fetchByte a = .error f ↔ ¬(8 ≤ a ∧ a < 256) ∧ f = .outOfRange a .fetch := by
  unfold State.fetchByte
  split <;> simp_all [eq_comm]

/-- What `DataRead` answers (R34). -/
theorem State.dataRead_ok : s.dataRead a = .ok v ↔ a < 8 ∧ s.mem.read a = v := by
  unfold State.dataRead
  split <;> simp_all

/-- When `DataRead` raises, and what (R34, R82). -/
theorem State.dataRead_error : s.dataRead a = .error f ↔ 8 ≤ a ∧ f = .outOfRange a .dataRead := by
  unfold State.dataRead
  split <;> simp_all [eq_comm]

/-- What `DataWrite` answers (R34). -/
theorem State.dataWrite_ok : s.dataWrite a v = .ok t ↔ a < 8 ∧ t = { s with mem := s.mem.write a v } := by
  unfold State.dataWrite
  split <;> simp_all [eq_comm]

/-- When `DataWrite` raises, and what (R34, R82). -/
theorem State.dataWrite_error : s.dataWrite a v = .error f ↔ 8 ≤ a ∧ f = .outOfRange a .dataWrite := by
  unfold State.dataWrite
  split <;> simp_all [eq_comm]

/-- What the fetch of an operand byte inside a handler answers (R33). -/
theorem operandByte_ok {c : Byte} : operandByte a b = .ok c ↔ (8 ≤ a ∧ a < 256) ∧ b = c := by
  unfold operandByte
  split <;> simp_all

/-- When the fetch of an operand byte inside a handler raises, and what (R33, R82). -/
theorem operandByte_error : operandByte a b = .error f ↔ ¬(8 ≤ a ∧ a < 256) ∧ f = .outOfRange a .fetch := by
  unfold operandByte
  split <;> simp_all [eq_comm]

/-- What the selector decodes to (R53). -/
theorem selector_ok : selector b a = .ok r ↔ (b = 1 ∧ r = .r1) ∨ (b = 2 ∧ r = .r2) := by
  unfold selector
  split
  · simp_all [eq_comm]
  · split <;> simp_all [eq_comm]

/-- When the selector is rejected, and with what (R53, R83). -/
theorem selector_error : selector b a = .error f ↔ (b ≠ 1 ∧ b ≠ 2) ∧ f = .invalidOperand b a := by
  unfold selector
  split
  · simp_all
  · split <;> simp_all [eq_comm]

/-- What a selector operand gives: its fetch is accepted and the byte is a selector. -/
theorem selectorOperand_ok :
    selectorOperand a k b = .ok r ↔
      (8 ≤ a + k ∧ a + k < 256) ∧ ((b = 1 ∧ r = .r1) ∨ (b = 2 ∧ r = .r2)) := by
  simp only [selectorOperand, bind_ok, operandByte_ok, selector_ok, operandAddress]
  grind

/-- What a selector operand can raise: OutOfRange on its fetch first, then InvalidOperand on its byte (R86). -/
theorem selectorOperand_error :
    selectorOperand a k b = .error f ↔
      (¬(8 ≤ a + k ∧ a + k < 256) ∧ f = .outOfRange (a + k) .fetch) ∨
        ((8 ≤ a + k ∧ a + k < 256) ∧ (b ≠ 1 ∧ b ≠ 2) ∧ f = .invalidOperand b (a + k)) := by
  simp only [selectorOperand, bind_error, operandByte_ok, operandByte_error, selector_error, operandAddress]
  grind

/-- What an address operand gives (R54): no window of the data is checked yet. -/
theorem addressOperand_ok {n : Nat} :
    addressOperand a k b = .ok n ↔ (8 ≤ a + k ∧ a + k < 256) ∧ n = b.toNat := by
  simp only [addressOperand, bind_ok, operandByte_ok, pure_ok, operandAddress]
  grind

/-- What an address operand can raise (R54, R86). -/
theorem addressOperand_error :
    addressOperand a k b = .error f ↔ ¬(8 ≤ a + k ∧ a + k < 256) ∧ f = .outOfRange (a + k) .fetch := by
  simp only [addressOperand, bind_error, operandByte_ok, operandByte_error, pure_error, operandAddress]
  grind

/-- How a handler can end (R11, R69): with its own next state, or with a fault raised in the state it began in. -/
theorem finish_next {x : Except FaultRecord State} :
    finish s x = .next t ↔ x = .ok t ∨ ∃ f, x = .error f ∧ t = s.raise f := by
  cases x <;> simp [finish, eq_comm]

/-- A handler never ends without a next state. -/
theorem finish_total (s : State) (x : Except FaultRecord State) : ∃ t, finish s x = .next t := by
  cases x <;> exact ⟨_, rfl⟩

/-- The operand byte the decoder is given is the cell's, for an address in the instruction window (R64). -/
theorem State.operandAt_inWindow (h : 8 ≤ a ∧ a < 256) : s.operandAt a = s.mem.read a := by
  rw [State.operandAt, State.fetchByte_ok.2 ⟨h, rfl⟩]

end Sys2Proof.Machine
end

