-- ==== Sys2Proof/Laws/Exec.lean ====
section
/-! SUPPORT. For each handler, once, how it can end (R73, R74, R77, R78). -/

namespace Sys2Proof.Machine

variable {s t : State} {b1 b2 : Byte} {f : FaultRecord}

/-- How LOAD can end: a fault raised in `s`, or the cell copied into the register and `pc` moved on. -/
theorem execLoad_next (h : execLoad b1 b2 s = .next t) :
    (∃ f, t = s.raise f) ∨
      ∃ r, selectorOperand s.pc 1 b1 = .ok r ∧ s.pc + 2 < 256 ∧ b2.toNat < 8 ∧
        t = (s.setReg r (s.mem.read b2.toNat)).advance := by
  obtain h | ⟨f, -, rfl⟩ := finish_next.1 h
  · simp only [bind_ok, addressOperand_ok, State.dataRead_ok, pure_ok] at h
    obtain ⟨r, hr, _, ⟨hw, rfl⟩, _, ⟨ha, rfl⟩, rfl⟩ := h
    exact .inr ⟨r, hr, hw.2, ha, rfl⟩
  · exact .inl ⟨f, rfl⟩

/-- How STORE can end: a fault raised in `s`, or the register copied into the cell and `pc` moved on. -/
theorem execStore_next (h : execStore b1 b2 s = .next t) :
    (∃ f, t = s.raise f) ∨
      ∃ r, selectorOperand s.pc 1 b1 = .ok r ∧ s.pc + 2 < 256 ∧ b2.toNat < 8 ∧
        t = State.advance { s with mem := s.mem.write b2.toNat (s.reg r) } := by
  obtain h | ⟨f, -, rfl⟩ := finish_next.1 h
  · simp only [bind_ok, addressOperand_ok, State.dataWrite_ok, pure_ok] at h
    obtain ⟨r, hr, _, ⟨hw, rfl⟩, _, ⟨ha, rfl⟩, rfl⟩ := h
    exact .inr ⟨r, hr, hw.2, ha, rfl⟩
  · exact .inl ⟨f, rfl⟩

/-- How ADD and SUB can end: a fault raised in `s`, or the result in the first register and `pc` moved on. -/
theorem execAlu_next {op : Byte → Byte → Byte} (h : execAlu op b1 b2 s = .next t) :
    (∃ f, t = s.raise f) ∨
      ∃ d q, selectorOperand s.pc 1 b1 = .ok d ∧ selectorOperand s.pc 2 b2 = .ok q ∧
        t = (s.setReg d (op (s.reg d) (s.reg q))).advance := by
  obtain h | ⟨f, -, rfl⟩ := finish_next.1 h
  · simp only [bind_ok, pure_ok] at h
    obtain ⟨d, hd, q, hq, rfl⟩ := h
    exact .inr ⟨d, q, hd, hq, rfl⟩
  · exact .inl ⟨f, rfl⟩

/-- The whole of `raiseUnknownOpcode` (R67). -/
theorem raiseUnknownOpcode_next {op : Byte} :
    raiseUnknownOpcode op s = .next t ↔ t = s.raise (.unknownOpcode op s.pc) := by
  simp [raiseUnknownOpcode, eq_comm]

end Sys2Proof.Machine
end

