-- ==== Sys2Proof/Laws/PerInstr.lean ====
section
/-! SUPPORT. Statements made for every instruction, one lemma per constructor. -/

namespace Sys2Proof.Laws.EncodeLength

/-- An instruction's encoding has as many bytes as R50 gives it. -/
def Statement (i : Instr) : Prop := (encode i).length = i.length

theorem load (s a : Byte) : Statement (.load s a) := rfl
theorem store (s a : Byte) : Statement (.store s a) := rfl
theorem add (d t : Byte) : Statement (.add d t) := rfl
theorem sub (d t : Byte) : Statement (.sub d t) := rfl
theorem halt : Statement .halt := rfl
theorem reservedAddi : Statement .reservedAddi := rfl
theorem reservedSubi : Statement .reservedSubi := rfl
theorem reservedJump : Statement .reservedJump := rfl
theorem reservedBeqz : Statement .reservedBeqz := rfl
theorem unknown (op : Byte) : Statement (.unknown op) := rfl

end Sys2Proof.Laws.EncodeLength
end

