-- ==== Sys2Proof/Laws/Step.lean ====
section
/-! SUPPORT. How a RUNNING step begins: the bytes that the fetch unit hands to the decoder. -/

namespace Sys2Proof.Machine

variable {s : State} {op : Byte}

/-- In RUNNING, a step is one pass of the loop (R63). -/
theorem step_of_running (hr : s.run = .running) : step s = stepRunning s := by
  simp [step, stepCore, hr]

/-- The four handler opcodes are fetched with their two operand bytes (R50, R64). -/
theorem State.instrBytes_three (h : op = 0x01 ∨ op = 0x02 ∨ op = 0x03 ∨ op = 0x04) :
    s.instrBytes op = [op, s.operandAt (s.pc + 1), s.operandAt (s.pc + 2)] := by
  rcases h with rfl | rfl | rfl | rfl <;> rfl

/-- Every other opcode byte is fetched alone (R65). -/
theorem State.instrBytes_one (h : ¬(op = 0x01 ∨ op = 0x02 ∨ op = 0x03 ∨ op = 0x04)) : s.instrBytes op = [op] := by
  unfold State.instrBytes operandCount
  rw [if_neg h]
  rfl

/-- In RUNNING with `pc` in the window, a step decodes and executes the bytes that begin with the opcode byte at `pc`. -/
theorem step_of_fetched (hr : s.run = .running) (hp : 8 ≤ s.pc ∧ s.pc < 256) (ho : s.mem.read s.pc = op) :
    step s =
      match decode (s.instrBytes op) with
      | .ok (i, _) => exec i s
      | .error _ => .refused .undecodable := by
  rw [step_of_running hr, stepRunning, State.fetchByte_ok.2 ⟨hp, ho⟩] <;> rfl

end Sys2Proof.Machine
end

