-- ==== Sys2Proof/Tests/Slice0.lean ====
section
/-! SUPPORT. Tests: the checks of WellFormed, words written out from the spec's encodings, the spec's test vectors
(95_test_vectors.md) as single steps, and for each statement with hypotheses a state and operands that meet them. -/

namespace Sys2Proof.Tests

open Sys2Proof.Machine

/-- A RUNNING state with the listed bytes in the instruction window from `pc` on and the data bytes from cell 0 on. -/
def at' (pc : Nat) (code : List Byte) (data : List Byte := []) (r1 r2 : Byte := 0) : State :=
  { State.reset with mem := Memory.writeBytes (Memory.ofBytes 0 data) pc code, pc := pc, r1 := r1, r2 := r2 }

/-- What `f` reads from the next state, if there is one. -/
def after {α : Type} (o : Host.Outcome State Fault Refusal) (f : State → α) : Option α :=
  match o with
  | .next s => some (f s)
  | .fault _ => none
  | .refused _ => none

/-- The run state, the fault record and `pc`: what a fault vector of the spec gives. -/
def ending (s : State) : RunState × FaultRecord × Nat := (s.run, s.fault, s.pc)

/-! ### WellFormed refuses each ill-formed term -/

theorem test_wellFormed_refuses_named_opcode_as_unknown :
    (Instr.unknown 0x01).wellFormed = false ∧ (Instr.unknown 0x08).wellFormed = false ∧
      (Instr.unknown 0xFF).wellFormed = false := by decide

theorem test_legal_refuses_bad_selector :
    (Instr.load 0x00 0x00).legal = false ∧ (Instr.store 0x03 0x00).legal = false ∧
      (Instr.add 0x01 0x00).legal = false ∧ (Instr.sub 0xFF 0x02).legal = false := by decide

theorem test_legal_refuses_bad_address :
    (Instr.load 0x01 0x08).legal = false ∧ (Instr.store 0x02 0xFF).legal = false ∧
      (Instr.load 0x01 0x07).legal = true := by decide

theorem test_legal_refuses_opcodes_without_handler :
    Instr.reservedJump.legal = false ∧ (Instr.unknown 0x00).legal = false := by decide

/-! ### Decoding: bytes written out from 30_encoding.md (R51, R56) and the examples of R73 to R78 -/

theorem test_decode_load : decode [0x01, 0x02, 0x03] = .ok (.load 0x02 0x03, []) := by decide
theorem test_decode_store : decode [0x02, 0x01, 0x02, 0xAA] = .ok (.store 0x01 0x02, [0xAA]) := by decide
theorem test_decode_add : decode [0x03, 0x01, 0x02] = .ok (.add 0x01 0x02, []) := by decide
theorem test_decode_sub : decode [0x04, 0x01, 0x02] = .ok (.sub 0x01 0x02, []) := by decide
theorem test_decode_halt : decode [0xFF, 0x01] = .ok (.halt, [0x01]) := by decide
theorem test_decode_reserved :
    decode [0x05] = .ok (.reservedAddi, []) ∧ decode [0x06] = .ok (.reservedSubi, []) ∧
      decode [0x07] = .ok (.reservedJump, []) ∧ decode [0x08] = .ok (.reservedBeqz, []) := by decide
theorem test_decode_unknown :
    decode [0x00] = .ok (.unknown 0x00, []) ∧ decode [0x09] = .ok (.unknown 0x09, []) ∧
      decode [0xFE] = .ok (.unknown 0xFE, []) := by decide
theorem test_decode_refuses_by_name :
    decode [] = .error .missingOpcode ∧ decode [0x01, 0x01] = .error (.missingOperands 0x01) := by decide
theorem test_decodeTableWord :
    decodeTableWord 24 0x010203 = some (.load 0x02 0x03) ∧ decodeTableWord 24 0x020102 = some (.store 0x01 0x02) ∧
      decodeTableWord 24 0x030201 = some (.add 0x02 0x01) ∧ decodeTableWord 24 0x040102 = some (.sub 0x01 0x02) ∧
      decodeTableWord 8 0xFF = some .halt ∧ decodeTableWord 8 0x05 = some .reservedAddi ∧
      decodeTableWord 8 0x00 = some (.unknown 0x00) := by decide

/-! ### Single steps: the vectors of 95_test_vectors.md, named as there -/

theorem test_step_L2 :
    after (step (at' 8 [0x01, 0x02, 0x07] [0, 0, 0, 0, 0, 0, 0, 0x5C] 0x11 0)) (fun s => (s.r1, s.r2, s.pc, s.run)) =
      some (0x11, 0x5C, 11, .running) := by decide
theorem test_step_L3 :
    after (step (at' 8 [0x01, 0x01, 0x08])) ending = some (.faulted, .outOfRange 8 .dataRead, 8) := by decide
theorem test_step_S2 :
    after (step (at' 8 [0x02, 0x02, 0x07] [] 0x11 0x99)) (fun s => (s.mem.read 7, s.r1, s.r2, s.pc)) =
      some (0x99, 0x11, 0x99, 11) := by decide
theorem test_step_S6 :
    after (step (at' 8 [0x02, 0x04, 0x09])) ending = some (.faulted, .invalidOperand 0x04 9, 8) := by decide
theorem test_step_A3 :
    after (step (at' 8 [0x03, 0x02, 0x01] [] 0x01 0xFF)) (fun s => (s.r1, s.r2, s.pc)) = some (0x01, 0x00, 11) := by
  decide
theorem test_step_A6 :
    after (step (at' 8 [0x03, 0x01, 0x00] [] 0x05 0)) (fun s => (ending s, s.r1)) =
      some ((.faulted, .invalidOperand 0x00 10, 8), 0x05) := by decide
theorem test_step_sub_wraps :
    after (step (at' 8 [0x04, 0x01, 0x02] [] 3 10)) (fun s => (s.r1, s.r2, s.pc)) = some (249, 10, 11) := by decide
theorem test_step_A8 :
    after (step (at' 8 [0x04, 0x02, 0x07])) ending = some (.faulted, .invalidOperand 0x07 10, 8) := by decide
theorem test_step_F3 :
    after (step (at' 255 [0xFF])) ending = some (.halted, .noFault, 255) := by decide
theorem test_step_F14_F15 :
    after (step (at' 254 [0x01, 0x01])) ending = some (.faulted, .outOfRange 256 .fetch, 254) ∧
      after (step (at' 254 [0x01, 0x00])) ending = some (.faulted, .invalidOperand 0x00 255, 254) := by decide
theorem test_step_F12_F13 :
    after (step (at' 7 [])) ending = some (.faulted, .outOfRange 7 .fetch, 7) ∧
      after (step (at' 256 [])) ending = some (.faulted, .outOfRange 256 .fetch, 256) := by decide
theorem test_step_F5_to_F8 :
    after (step (at' 8 [0x05, 1, 1])) ending = some (.faulted, .unknownOpcode 0x05 8, 8) ∧
      after (step (at' 8 [0x06, 1, 1])) ending = some (.faulted, .unknownOpcode 0x06 8, 8) ∧
      after (step (at' 8 [0x07, 8, 0])) ending = some (.faulted, .unknownOpcode 0x07 8, 8) ∧
      after (step (at' 8 [0x08, 1, 8])) ending = some (.faulted, .unknownOpcode 0x08 8, 8) := by decide
theorem test_step_F11 :
    after (step (at' 254 [0x00, 0x01])) ending = some (.faulted, .unknownOpcode 0x00 254, 254) := by decide
theorem test_withFetchWord_runs_the_word :
    after (step ((at' 8 [] [0x2A]).withFetchWord 24 0x010200)) (fun s => (s.r2, s.pc)) = some (0x2A, 11) := by decide

/-! ### The ALU table of 95_test_vectors.md, 2.3 -/

theorem test_alu_rows :
    aluAdd 200 100 = 44 ∧ aluSub 200 100 = 100 ∧ aluAdd 255 1 = 0 ∧ aluSub 0 1 = 255 ∧ aluSub 128 1 = 127 := by decide

/-! ### Memory: a write of what an unlisted cell holds removes the entry -/

theorem test_write_keeps_canonical_form :
    Memory.write [(1, 5), (3, 7)] 2 9 = [(1, 5), (2, 9), (3, 7)] ∧ Memory.write [(1, 5), (3, 7)] 3 0 = [(1, 5)] := by
  decide

/-! ### The assembler: R61's example program gives the image of S7, and no reserved mnemonic has a form -/

theorem test_assemble_source_program :
    Assembler.assemble
      ['L', 'O', 'A', 'D', ' ', 'R', '1', ',', '0', ';', ' ', 'L', 'O', 'A', 'D', ' ', 'R', '2', ',', '1', ';', ' ',
        'S', 'U', 'B', ' ', 'R', '1', ',', 'R', '2', ';', ' ', 'S', 'T', 'O', 'R', 'E', ' ', 'R', '1', ',', '2', ';',
        ' ', 'H', 'A', 'L', 'T'] =
      some [0x01, 0x01, 0x00, 0x01, 0x02, 0x01, 0x04, 0x01, 0x02, 0x02, 0x01, 0x02, 0xFF] := by decide
theorem test_assemble_hex_and_reserved :
    Assembler.readStatement ['L', 'O', 'A', 'D', ' ', 'R', '1', ',', ' ', '0', 'x', 'f', 'F'] = some (.load 0x01 0xFF) ∧
      Assembler.readStatement ['J', 'U', 'M', 'P', ' ', '8'] = none ∧
      Assembler.readStatement ['L', 'O', 'A', 'D', ' ', 'R', '3', ',', '0'] = none := by decide
/-- The three line breaks of log 12. -/
theorem test_assemble_line_breaks :
    Assembler.assemble ['H', 'A', 'L', 'T', '\r', '\n', 'H', 'A', 'L', 'T', '\n', 'H', 'A', 'L', 'T', '\r'] =
      some [0xFF, 0xFF, 0xFF] := by decide

/-! ### Witnesses: for each statement with hypotheses, a state and operands that meet them, at the edges of their ranges -/

/-- An image with STORE R1, 3 at its first instruction address. -/
def sample : State := at' 8 [0x02, 0x01, 0x03] [0x05, 0x06] 0x2A 0x09

/-- `sample` with another byte in a cell that its next step does not read. -/
def sampleOther : State := { sample with mem := sample.mem.write 200 0x77 }

theorem witness_DecodeUndoesEncode :
    (Instr.unknown 0x09).wellFormed = true ∧ (Instr.unknown 0x00).wellFormed = true ∧
      (Instr.load 0xFF 0xFF).wellFormed = true := by decide
theorem witness_EncodeUndoesDecode : decode [0x04, 0x02, 0x01, 0xFF] = .ok (.sub 0x02 0x01, [0xFF]) := by decide
theorem witness_AssemblerReadsWhatItPrints :
    Assembler.print (.store 0x02 0xFF) = some ['S', 'T', 'O', 'R', 'E', ' ', 'R', '2', ',', ' ', '2', '5', '5'] := by
  decide
theorem witness_SelectorNamesR1OrR2 :
    (0x00 : Byte) ≠ 0x01 ∧ (0x00 : Byte) ≠ 0x02 ∧ (0x03 : Byte) ≠ 0x01 ∧ (0x03 : Byte) ≠ 0x02 := by decide
theorem witness_FetchByteStaysInItsWindow :
    sample.fetchByte 8 = .ok 0x02 ∧ sample.fetchByte 255 = .ok 0x00 ∧
      sample.fetchByte 7 = .error (.outOfRange 7 .fetch) ∧ sample.fetchByte 256 = .error (.outOfRange 256 .fetch) := by
  decide
theorem witness_DataAccessStaysInItsWindow :
    sample.mem.wf = true ∧ sample.dataRead 0 = .ok 0x05 ∧ sample.dataRead 7 = .ok 0x00 ∧
      sample.dataRead 8 = .error (.outOfRange 8 .dataRead) ∧
      sample.dataWrite 8 0x01 = .error (.outOfRange 8 .dataWrite) := by decide
theorem witness_SameCellsSameMemory :
    Memory.wf [(3, 9), (255, 1)] = true ∧ Memory.write (Memory.write [] 255 1) 3 9 = [(3, 9), (255, 1)] := by decide

/-- For LoadCopiesCellIntoRegister, StoreCopiesRegisterIntoCell, AddPutsSumInFirstRegister,
SubPutsDifferenceInFirstRegister, SameRegisterDoublesOrClears and ExactlyIllegalInstructionsFault: `pc` at both ends of
the range that leaves both operand bytes in the window, the first and last data addresses, both selectors. -/
theorem witness_completion_hypotheses :
    (InWindow ((at' 7 []).pc + 1) ∧ InWindow ((at' 7 []).pc + 2)) ∧
      (InWindow ((at' 253 []).pc + 1) ∧ InWindow ((at' 253 []).pc + 2)) ∧
      (at' 253 []).mem.wf = true ∧ (at' 253 []).run = .running ∧ (0x00 : Byte).toNat < 8 ∧ (0x07 : Byte).toNat < 8 ∧
      Names 0x01 .r1 ∧ Names 0x02 .r2 := by decide
theorem witness_HaltStopsTheRun :
    (at' 255 [0xFF]).run = .running ∧ InWindow (at' 255 [0xFF]).pc ∧
      (at' 255 [0xFF]).mem.read (at' 255 [0xFF]).pc = 0xFF := by decide
theorem witness_UnknownOpcodeFaults :
    (at' 8 [0xFE]).run = .running ∧ InWindow (at' 8 [0xFE]).pc ∧ (at' 8 [0xFE]).mem.read (at' 8 [0xFE]).pc = 0xFE ∧
      (0xFE : Byte) ∉ ([0x01, 0x02, 0x03, 0x04, 0xFF] : List Byte) ∧
      (0x00 : Byte) ∉ ([0x01, 0x02, 0x03, 0x04, 0xFF] : List Byte) := by decide
theorem witness_ReservedOpcodesFault :
    (at' 8 [0x05]).run = .running ∧ InWindow (at' 8 [0x05]).pc ∧ (at' 8 [0x05]).mem.read 8 = 0x05 ∧
      (at' 255 [0x08]).mem.read 255 = 0x08 ∧ InWindow (at' 255 [0x08]).pc := by decide

/-- For LoadAndStoreCheckInOrder and AddAndSubCheckInOrder: each clause's hypotheses, where it meets its neighbours. -/
theorem witness_check_order_hypotheses :
    ¬InWindow ((at' 255 []).pc + 1) ∧ ¬InWindow ((at' 6 []).pc + 1) ∧
      (InWindow ((at' 254 []).pc + 1) ∧ (0x00 : Byte) ≠ 0x01 ∧ (0x00 : Byte) ≠ 0x02) ∧
      (InWindow ((at' 254 []).pc + 1) ∧ ((0x02 : Byte) = 0x01 ∨ (0x02 : Byte) = 0x02) ∧ ¬InWindow ((at' 254 []).pc + 2)) ∧
      (InWindow ((at' 253 []).pc + 1) ∧ InWindow ((at' 253 []).pc + 2) ∧ 8 ≤ (0x08 : Byte).toNat ∧
        (0x03 : Byte) ≠ 0x01 ∧ (0x03 : Byte) ≠ 0x02) := by decide
theorem witness_RegisterInstructionsFrame :
    after (exec (.load 0x02 0x01) sample) (fun t => (t.r1, t.r2)) = some (0x2A, 0x06) ∧
      after (exec (.add 0x01 0x02) sample) (fun t => (t.r1, t.r2)) = some (0x33, 0x09) ∧
      after (exec (.sub 0x01 0x02) sample) (fun t => (t.r1, t.r2)) = some (0x21, 0x09) := by decide
theorem witness_StoreFrame :
    after (exec (.store 0x01 0x07) sample) (fun t => (t.run, t.mem.read 7, t.mem.read 6)) = some (.running, 0x2A, 0) ∧
      addressOperand sample.pc 2 0x07 = .ok 7 ∧
      after (exec (.store 0x01 0x07) (at' 254 [])) (fun t => t.run) = some .faulted ∧
      addressOperand (at' 254 []).pc 2 0x07 = .error (.outOfRange 256 .fetch) := by decide
theorem witness_ControlInstructionsFrame :
    after (exec .halt sample) (fun t => t.run) = some .halted ∧
      after (exec (.unknown 0x00) sample) (fun t => t.run) = some .faulted := by decide
theorem witness_StepRunsDecodedInstruction :
    (at' 253 [0x01, 0x01, 0x00]).run = .running ∧ 8 ≤ (at' 253 [0x01, 0x01, 0x00]).pc ∧
      (at' 253 [0x01, 0x01, 0x00]).pc + (Instr.load 0x01 0x00).length ≤ 256 ∧
      decode ((at' 253 [0x01, 0x01, 0x00]).mem.bytesAt 253 3) = .ok (.load 0x01 0x00, []) ∧
      (Instr.load 0x01 0x00).wellFormed = true ∧ (at' 255 [0xFF]).pc + Instr.halt.length ≤ 256 ∧
      decode ((at' 255 [0xFF]).mem.bytesAt 255 1) = .ok (.halt, []) := by decide
theorem witness_OpcodeFetchOutsideWindowFaults :
    (at' 7 []).run = .running ∧ ¬InWindow (at' 7 []).pc ∧ ¬InWindow (at' 256 []).pc := by decide
theorem witness_OperandFetchPastTheTopFaults :
    (at' 254 [0x04, 0x02]).run = .running ∧ (at' 254 [0x04, 0x02]).mem.read 254 = 0x04 ∧
      (at' 254 [0x04, 0x02]).mem.read 255 = 0x02 ∧ (at' 254 [0x01, 0x03]).mem.read 255 = 0x03 ∧
      (at' 255 [0x01]).mem.read 255 = 0x01 := by decide

/-- For StepFollowsThePseudocode and EveryRunningStepHasANextState. -/
theorem witness_running : sample.run = .running ∧ State.reset.run = .running := by decide
theorem witness_NoStepAfterTheEnd :
    ({ sample with run := .halted } : State).run ≠ .running ∧ ({ sample with run := .faulted } : State).run ≠ .running := by
  decide

/-- For RunStateTransitions, PcMovesOnlyOnCompletion, OnlyStoreChangesMemory and StepKeepsSound: the step of `sample`
completes and changes cell 3. -/
theorem witness_step_completes :
    sample.faultAgrees ∧ sample.mem.wf = true ∧
      after (step sample) (fun t => (t.pc, t.run, t.mem.read 3)) = some (11, .running, 0x2A) ∧ sample.mem.read 3 = 0x00 := by
  decide
theorem witness_FaultingStepWritesNothingElse :
    after (step (at' 8 [0x02, 0x01, 0x08])) ending = some (.faulted, .outOfRange 8 .dataWrite, 8) := by decide
theorem witness_ProgramBytesNeverChange : ∃ t, Reaches sample t ∧ t.mem.read 3 = 0x2A ∧ t.mem.read 8 = 0x02 :=
  ⟨_, ⟨1, .step .refl rfl⟩, by decide, by decide⟩
theorem witness_UnreadBytesDoNotMatter :
    sample.mem.wf = true ∧ sampleOther.mem.wf = true ∧ sample.sameButMemory sampleOther ∧ sample ≠ sampleOther ∧
      (∀ a, a < 11 → sample.mem.read a = sampleOther.mem.read a) ∧
      after (step sample) (fun t => t.pc) = some 11 := by decide
theorem witness_LoadAfterStoreGivesTheStoredByte :
    sample.mem.wf = true ∧ (0x07 : Byte).toNat < 8 ∧ Names 0x01 .r1 ∧ Names 0x02 .r2 ∧ InWindow (sample.pc + 1) ∧
      InWindow (sample.pc + 2) ∧
      after (exec (.store 0x01 0x07) sample) (fun t => after (exec (.load 0x02 0x07) t) (fun u => u.r2)) =
        some (some 0x2A) := by decide

/-- For RunOutcomesTellTheTruth: each of the three ways an attempt comes out. -/
theorem witness_RunOutcomesTellTheTruth :
    runFor 5 (at' 8 [0xFF]) = .halted { at' 8 [0xFF] with run := .halted } ∧
      runFor 1 (at' 8 []) = .faulted { at' 8 [] with run := .faulted, fault := .unknownOpcode 0x00 8 } ∧
      runFor 0 sample = .outOfFuel sample := by decide

/-- For SoundPcFitsItsSlot too. -/
theorem witness_StepKeepsSound : sample.Sound := ⟨by decide, by decide, 0, by decide, by decide⟩
theorem witness_EveryRunEndsWithin83Steps : 83 ≤ 83 := by decide

end Sys2Proof.Tests
end

section
/-! The state after reset and after `start` (R20, R30, R97). -/

namespace Sys2Proof.Machine

/-- Settles O41: `start` changes only the memory of the reset state, so both clauses are the reset value of `pc` (R20). -/
theorem resetPcIsEight : Obligations.ResetPcIsEight :=
  ⟨State.reset_pc, State.start_pc⟩

end Sys2Proof.Machine
end

section
/-! Legality and faults (R58): with both operand bytes in the instruction window, the checks that a handler makes are
those of `Instr.legal`. (`bind_pure_comp` would turn the last bind of a handler into a map before `bind_ok` applies, so it
is kept out.) -/

namespace Sys2Proof.Machine

variable {s : State} {b b1 b2 : Byte} {legal : Bool}

/-- The outcome is a next state, in FAULTED exactly when `legal` does not hold: what R58 says of an instruction that ends
so. -/
def FaultsUnless (legal : Bool) (o : Host.Outcome State Fault Refusal) : Prop :=
  ∃ t, o = .next t ∧ (t.run = .faulted ↔ legal = false)

theorem isDataAddress_iff : isDataAddress b = true ↔ b.toNat < 8 := by
  simp [isDataAddress]

/-- Once its fetch is in the window, a selector operand names a register exactly when its byte is a selector (R53). -/
theorem exists_selectorOperand_ok {pc k : Nat} (h : InWindow (pc + k)) :
    (∃ r, selectorOperand pc k b = .ok r) ↔ isSelector b = true := by
  simp [selectorOperand_ok, isSelector, h, exists_or]

/-- A handler that keeps the run state in every answer, and answers exactly when `legal` holds, ends as R58 says: its
answers are RUNNING, and without one it has raised a fault. -/
theorem finish_faultsUnless {x : Except FaultRecord State} (hs : s.run = .running)
    (hrun : ∀ t, x = .ok t → t.run = s.run) (hlegal : (∃ t, x = .ok t) ↔ legal = true) :
    FaultsUnless legal (finish s x) := by
  cases x with
  | ok t =>
    have hl : legal = true := hlegal.1 ⟨t, rfl⟩
    exact ⟨t, rfl, by simp [hrun t rfl, hs, hl]⟩
  | error f =>
    have hl : legal = false := by simpa using hlegal
    exact ⟨s.raise f, rfl, by simp [hl]⟩

/-- LOAD faults unless its selector names a register and its address is in the data window (R73). -/
theorem execLoad_faultsUnless (hs : s.run = .running) (h1 : InWindow (s.pc + 1)) (h2 : InWindow (s.pc + 2)) :
    FaultsUnless (isSelector b1 && isDataAddress b2) (execLoad b1 b2 s) := by
  apply finish_faultsUnless hs
  · intro t ht
    simp only [bind_ok, pure_ok] at ht
    obtain ⟨r, -, a, -, v, -, rfl⟩ := ht
    simp
  · rw [Bool.and_eq_true, ← exists_selectorOperand_ok h1, isDataAddress_iff]
    simp [-bind_pure_comp, bind_ok, addressOperand_ok, State.dataRead_ok, h2]

/-- STORE faults unless its selector names a register and its address is in the data window (R74). -/
theorem execStore_faultsUnless (hs : s.run = .running) (h1 : InWindow (s.pc + 1)) (h2 : InWindow (s.pc + 2)) :
    FaultsUnless (isSelector b1 && isDataAddress b2) (execStore b1 b2 s) := by
  apply finish_faultsUnless hs
  · intro t ht
    simp only [bind_ok, State.dataWrite_ok, pure_ok] at ht
    obtain ⟨r, -, a, -, u, ⟨-, rfl⟩, rfl⟩ := ht
    simp
  · rw [Bool.and_eq_true, ← exists_selectorOperand_ok h1, isDataAddress_iff]
    simp [-bind_pure_comp, bind_ok, addressOperand_ok, State.dataWrite_ok, h2]

/-- ADD and SUB fault unless both selectors name a register (R77, R78); the operation has no part in it (R76). -/
theorem execAlu_faultsUnless (op : Byte → Byte → Byte) (hs : s.run = .running) (h1 : InWindow (s.pc + 1))
    (h2 : InWindow (s.pc + 2)) : FaultsUnless (isSelector b1 && isSelector b2) (execAlu op b1 b2 s) := by
  apply finish_faultsUnless hs
  · intro t ht
    simp only [bind_ok, pure_ok] at ht
    obtain ⟨d, -, q, -, rfl⟩ := ht
    simp
  · rw [Bool.and_eq_true, ← exists_selectorOperand_ok h1, ← exists_selectorOperand_ok h2]
    simp [-bind_pure_comp, bind_ok]

/-- HALT never faults (R66). -/
theorem execHalt_faultsUnless : FaultsUnless true (execHalt s) := ⟨_, rfl, by simp⟩

/-- An opcode byte without a handler always faults (R67). -/
theorem raiseUnknownOpcode_faultsUnless (op : Byte) : FaultsUnless false (raiseUnknownOpcode op s) :=
  ⟨_, raiseUnknownOpcode_next.2 rfl, by simp⟩

/-- Settles O24, by cases on the instruction: each handler faults unless the check that `Instr.legal` makes for it holds. -/
theorem exactlyIllegalInstructionsFault : Obligations.ExactlyIllegalInstructionsFault := by
  intro s i hs h1 h2
  change FaultsUnless i.legal (exec i s)
  cases i with
  | load b1 b2 => exact execLoad_faultsUnless hs h1 h2
  | store b1 b2 => exact execStore_faultsUnless hs h1 h2
  | add b1 b2 => exact execAlu_faultsUnless aluAdd hs h1 h2
  | sub b1 b2 => exact execAlu_faultsUnless aluSub hs h1 h2
  | halt => exact execHalt_faultsUnless
  | reservedAddi => exact raiseUnknownOpcode_faultsUnless Config.opAddi
  | reservedSubi => exact raiseUnknownOpcode_faultsUnless Config.opSubi
  | reservedJump => exact raiseUnknownOpcode_faultsUnless Config.opJump
  | reservedBeqz => exact raiseUnknownOpcode_faultsUnless Config.opBeqz
  | unknown op => exact raiseUnknownOpcode_faultsUnless op

end Sys2Proof.Machine
end

section
/-! Fetch and dispatch (R63 to R70): the step at an opcode byte that is fetched alone, and how the dispatched instruction
moves `pc`. -/

namespace Sys2Proof.Machine

variable {s t : State} {op b1 b2 : Byte} {i : Instr}

/-! ### HALT and the opcode bytes without a handler (R66, R67, R68) -/

/-- A step at an opcode byte that takes no operands is the instruction that the byte alone decodes to (R63, R65). -/
theorem step_of_fetched_alone (hr : s.run = .running) (hp : InWindow s.pc) (ho : s.mem.read s.pc = op)
    (hop : ¬(op = 0x01 ∨ op = 0x02 ∨ op = 0x03 ∨ op = 0x04)) (hd : decode [op] = .ok (i, [])) :
    step s = exec i s := by
  simp only [step_of_fetched hr hp ho, State.instrBytes_one hop, hd]

/-- An opcode byte without a handler, reserved or unknown, decodes to an instruction that raises UnknownOpcode with that
byte (R67, R68). -/
theorem exists_decode_raisesUnknownOpcode (s : State) (h : op ∉ ([0x01, 0x02, 0x03, 0x04, 0xFF] : List Byte)) :
    ∃ i, decode [op] = .ok (i, []) ∧ exec i s = raiseUnknownOpcode op s := by
  by_cases h5 : op = 0x05
  · subst h5
    exact ⟨.reservedAddi, rfl, rfl⟩
  by_cases h6 : op = 0x06
  · subst h6
    exact ⟨.reservedSubi, rfl, rfl⟩
  by_cases h7 : op = 0x07
  · subst h7
    exact ⟨.reservedJump, rfl, rfl⟩
  by_cases h8 : op = 0x08
  · subst h8
    exact ⟨.reservedBeqz, rfl, rfl⟩
  · exact ⟨.unknown op, by simp_all [decode], rfl⟩

/-- A step at an opcode byte without a handler raises UnknownOpcode, whatever follows the byte (R67). -/
theorem step_of_noHandler (hr : s.run = .running) (hp : InWindow s.pc) (ho : s.mem.read s.pc = op)
    (h : op ∉ ([0x01, 0x02, 0x03, 0x04, 0xFF] : List Byte)) : step s = raiseUnknownOpcode op s := by
  obtain ⟨i, hd, he⟩ := exists_decode_raisesUnknownOpcode s h
  have hop : ¬(op = 0x01 ∨ op = 0x02 ∨ op = 0x03 ∨ op = 0x04) := by
    rintro (rfl | rfl | rfl | rfl) <;> simp at h
  rw [step_of_fetched_alone hr hp ho hop hd, he]

/-- Settles O19: the byte 0xFF is fetched alone and decodes to HALT, so the step is the instruction in hand. -/
theorem haltStopsTheRun : Obligations.HaltStopsTheRun :=
  ⟨fun _ => rfl, fun _ hr hp ho => step_of_fetched_alone (i := .halt) hr hp ho (by decide) rfl⟩

/-- Settles O20: as an instruction in hand by definition, as the byte at `pc` by `step_of_noHandler`. -/
theorem unknownOpcodeFaults : Obligations.UnknownOpcodeFaults :=
  ⟨fun _ _ => rfl, fun _ _ hr hp ho h => step_of_noHandler hr hp ho h⟩

/-- Settles O21: the four reserved bytes are bytes without a handler, so their step is that of `step_of_noHandler`. -/
theorem reservedOpcodesFault : Obligations.ReservedOpcodesFault := by
  refine fun s => ⟨rfl, rfl, rfl, rfl, fun hr hp hres => step_of_noHandler hr hp rfl ?_⟩
  rcases hres with h | h | h | h <;> rw [h] <;> decide

/-! ### What a step does with `pc` (R69, R70) -/

/-- `pc` is on by 3 and the run state RUNNING, or `pc` is where it was and the run state another: what R69 and R70 say of a
step. -/
def PcFollowsRun (s t : State) : Prop :=
  (t.run = .running ∧ t.pc = s.pc + 3) ∨ (t.run ≠ .running ∧ t.pc = s.pc)

/-- A fault keeps `pc` (R11, R88). -/
theorem pcFollowsRun_raise (f : FaultRecord) : PcFollowsRun s (s.raise f) := .inr ⟨by simp, rfl⟩

/-- There is a step in RUNNING only (R26). -/
theorem running_of_step_next (h : step s = .next t) : s.run = .running := by
  cases hr : s.run with
  | running => rfl
  | halted => simp [step, stepCore, hr] at h
  | faulted => simp [step, stepCore, hr] at h

/-- How a step can begin: a fault raised by the opcode fetch, or the instruction that the fetched bytes decode to (R63). -/
theorem step_next (h : step s = .next t) :
    (¬InWindow s.pc ∧ t = s.raise (.outOfRange s.pc .fetch)) ∨
      ∃ i rest, InWindow s.pc ∧ decode (s.instrBytes (s.mem.read s.pc)) = .ok (i, rest) ∧ exec i s = .next t := by
  have hr := running_of_step_next h
  by_cases hp : InWindow s.pc
  · rw [step_of_fetched hr hp rfl] at h
    cases hd : decode (s.instrBytes (s.mem.read s.pc)) with
    | ok d => exact .inr ⟨d.1, d.2, hp, rfl, by simpa only [hd] using h⟩
    | error e => simp [hd] at h
  · have hf : s.fetchByte s.pc = .error (.outOfRange s.pc .fetch) := State.fetchByte_error.2 ⟨hp, rfl⟩
    simp only [step_of_running hr, stepRunning, hf, Host.Outcome.next.injEq] at h
    exact .inl ⟨hp, h.symm⟩

theorem execLoad_pcFollowsRun (hr : s.run = .running) (h : execLoad b1 b2 s = .next t) : PcFollowsRun s t := by
  obtain ⟨f, rfl⟩ | ⟨r, -, -, -, rfl⟩ := execLoad_next h
  · exact pcFollowsRun_raise f
  · exact .inl (by simp [hr])

theorem execStore_pcFollowsRun (hr : s.run = .running) (h : execStore b1 b2 s = .next t) : PcFollowsRun s t := by
  obtain ⟨f, rfl⟩ | ⟨r, -, -, -, rfl⟩ := execStore_next h
  · exact pcFollowsRun_raise f
  · exact .inl (by simp [hr])

theorem execAlu_pcFollowsRun {f : Byte → Byte → Byte} (hr : s.run = .running) (h : execAlu f b1 b2 s = .next t) :
    PcFollowsRun s t := by
  obtain ⟨e, rfl⟩ | ⟨d, q, -, -, rfl⟩ := execAlu_next h
  · exact pcFollowsRun_raise e
  · exact .inl (by simp [hr])

/-- HALT keeps `pc` on its own byte (R66). -/
theorem execHalt_pcFollowsRun (h : execHalt s = .next t) : PcFollowsRun s t := by
  cases h
  exact .inr ⟨by simp, rfl⟩

theorem raiseUnknownOpcode_pcFollowsRun (h : raiseUnknownOpcode op s = .next t) : PcFollowsRun s t := by
  obtain rfl := raiseUnknownOpcode_next.1 h
  exact pcFollowsRun_raise _

/-- Each instruction, dispatched in RUNNING, moves `pc` exactly when it completes (R69, R70). -/
theorem exec_pcFollowsRun (hr : s.run = .running) (h : exec i s = .next t) : PcFollowsRun s t := by
  cases i with
  | load b1 b2 => exact execLoad_pcFollowsRun hr h
  | store b1 b2 => exact execStore_pcFollowsRun hr h
  | add b1 b2 => exact execAlu_pcFollowsRun hr h
  | sub b1 b2 => exact execAlu_pcFollowsRun hr h
  | halt => exact execHalt_pcFollowsRun h
  | reservedAddi => exact raiseUnknownOpcode_pcFollowsRun h
  | reservedSubi => exact raiseUnknownOpcode_pcFollowsRun h
  | reservedJump => exact raiseUnknownOpcode_pcFollowsRun h
  | reservedBeqz => exact raiseUnknownOpcode_pcFollowsRun h
  | unknown op => exact raiseUnknownOpcode_pcFollowsRun h

/-- Settles O35: a step is a fault of the opcode fetch, which keeps `pc`, or one instruction's `exec`. -/
theorem pcMovesOnlyOnCompletion : Obligations.PcMovesOnlyOnCompletion := by
  intro s t h
  change PcFollowsRun s t
  obtain ⟨-, rfl⟩ | ⟨i, rest, -, -, he⟩ := step_next h
  · exact pcFollowsRun_raise _
  · exact exec_pcFollowsRun (running_of_step_next h) he

end Sys2Proof.Machine
end

section
/-! LOAD and STORE that complete (R73, R74): with both operand bytes in the instruction window, a selector that names a
register and a data address below 8, no check raises and the handler ends in its own next state. -/

namespace Sys2Proof.Machine

variable {s : State} {b a : Byte} {r : Reg}

/-- LOAD with a selector that names `r` ends with the cell in `r` and `pc` moved on (R73). -/
theorem execLoad_completes (hb : Names b r) (h1 : InWindow (s.pc + 1)) (h2 : InWindow (s.pc + 2)) (ha : a.toNat < 8) :
    execLoad b a s = .next (s.setReg r (s.mem.read a.toNat)).advance := by
  refine finish_next.2 (.inl ?_)
  simp only [bind_ok, pure_ok]
  exact ⟨r, selectorOperand_ok.2 ⟨h1, hb⟩, a.toNat, addressOperand_ok.2 ⟨h2, rfl⟩,
    s.mem.read a.toNat, State.dataRead_ok.2 ⟨ha, rfl⟩, rfl⟩

/-- STORE with a selector that names `r` ends with `r` written to the cell and `pc` moved on (R74). -/
theorem execStore_completes (hb : Names b r) (h1 : InWindow (s.pc + 1)) (h2 : InWindow (s.pc + 2)) (ha : a.toNat < 8) :
    execStore b a s = .next (State.advance { s with mem := s.mem.write a.toNat (s.reg r) }) := by
  refine finish_next.2 (.inl ?_)
  simp only [bind_ok, pure_ok]
  exact ⟨r, selectorOperand_ok.2 ⟨h1, hb⟩, a.toNat, addressOperand_ok.2 ⟨h2, rfl⟩,
    _, State.dataWrite_ok.2 ⟨ha, rfl⟩, rfl⟩

/-- The memory after a STORE that completes: canonical, the register in the cell, every other cell as it was (R74). -/
theorem exists_execStore_mem (hm : s.mem.wf = true) (hb : Names b r) (h1 : InWindow (s.pc + 1))
    (h2 : InWindow (s.pc + 2)) (ha : a.toNat < 8) :
    ∃ m : Memory, execStore b a s = .next { s with mem := m, pc := s.pc + 3 } ∧
      m.wf = true ∧ m.read a.toNat = s.reg r ∧ ∀ x, x ≠ a.toNat → m.read x = s.mem.read x :=
  ⟨s.mem.write a.toNat (s.reg r), execStore_completes hb h1 h2 ha, Memory.wf_write (by omega) hm,
    Memory.read_write_self hm, fun _ hx => Memory.read_write_other hx⟩

/-- Settles O14: each selector names its register, and the completed LOAD writes that register and `pc` alone. -/
theorem loadCopiesCellIntoRegister : Obligations.LoadCopiesCellIntoRegister :=
  fun _ _ h1 h2 ha =>
    ⟨execLoad_completes (r := .r1) (by decide) h1 h2 ha, execLoad_completes (r := .r2) (by decide) h1 h2 ha⟩

/-- Settles O15: each selector names its register, and the memory written is that of `exists_execStore_mem`. -/
theorem storeCopiesRegisterIntoCell : Obligations.StoreCopiesRegisterIntoCell :=
  fun _ _ hm h1 h2 ha =>
    ⟨exists_execStore_mem (r := .r1) hm (by decide) h1 h2 ha, exists_execStore_mem (r := .r2) hm (by decide) h1 h2 ha⟩

end Sys2Proof.Machine
end

section
/-! The ALU, and ADD and SUB that complete (R76, R77, R78): with both operand bytes in the instruction window and selectors
that name registers, no check raises and the handler ends in its own next state. -/

namespace Sys2Proof.Machine

variable {s : State} {b1 b2 : Byte} {d q : Reg}

/-! ### The ALU (R76) -/

theorem toNat_aluAdd (a b : Byte) : (aluAdd a b).toNat = (a.toNat + b.toNat) % 256 := BitVec.toNat_ofNat ..

/-- The difference exact and then narrowed is the difference with 256 added, so that it does not go below 0, modulo 256. -/
theorem toNat_aluSub (a b : Byte) : (aluSub a b).toNat = (a.toNat + 256 - b.toNat) % 256 := by
  have hb : b.toNat < 256 := b.isLt
  have hnarrow : (aluSub a b).toNat = (((a.toNat : Int) - b.toNat) % 256).toNat := BitVec.toNat_ofInt ..
  omega

/-- Settles O9: each function is the narrowing of the exact result to a byte. -/
theorem aluWrapsModulo256 : Obligations.AluWrapsModulo256 :=
  fun a b => ⟨toNat_aluAdd a b, toNat_aluSub a b⟩

theorem aluAdd_eq_ofNat (a b : Byte) : aluAdd a b = BitVec.ofNat 8 ((a.toNat + b.toNat) % 256) := by
  rw [← toNat_aluAdd, BitVec.ofNat_toNat, BitVec.setWidth_eq]

theorem aluSub_eq_ofNat (a b : Byte) : aluSub a b = BitVec.ofNat 8 ((a.toNat + 256 - b.toNat) % 256) := by
  rw [← toNat_aluSub, BitVec.ofNat_toNat, BitVec.setWidth_eq]

/-! ### ADD and SUB (R77, R78) -/

/-- ADD and SUB with selectors that name `d` and `q` end with the operation's result in `d` and `pc` moved on. -/
theorem execAlu_completes (op : Byte → Byte → Byte) (hd : Names b1 d) (hq : Names b2 q) (h1 : InWindow (s.pc + 1))
    (h2 : InWindow (s.pc + 2)) : execAlu op b1 b2 s = .next (s.setReg d (op (s.reg d) (s.reg q))).advance := by
  refine finish_next.2 (.inl ?_)
  simp only [bind_ok, pure_ok]
  exact ⟨d, selectorOperand_ok.2 ⟨h1, hd⟩, q, selectorOperand_ok.2 ⟨h2, hq⟩, rfl⟩

/-- ADD puts the sum modulo 256 of the registers named into the first (R77). -/
theorem exec_add_completes (hd : Names b1 d) (hq : Names b2 q) (h1 : InWindow (s.pc + 1)) (h2 : InWindow (s.pc + 2)) :
    exec (.add b1 b2) s =
      .next (s.setReg d (BitVec.ofNat 8 (((s.reg d).toNat + (s.reg q).toNat) % 256))).advance := by
  rw [← aluAdd_eq_ofNat]
  exact execAlu_completes aluAdd hd hq h1 h2

/-- SUB puts the difference modulo 256 of the registers named, the first the minuend, into the first (R78). -/
theorem exec_sub_completes (hd : Names b1 d) (hq : Names b2 q) (h1 : InWindow (s.pc + 1)) (h2 : InWindow (s.pc + 2)) :
    exec (.sub b1 b2) s =
      .next (s.setReg d (BitVec.ofNat 8 (((s.reg d).toNat + 256 - (s.reg q).toNat) % 256))).advance := by
  rw [← aluSub_eq_ofNat]
  exact execAlu_completes aluSub hd hq h1 h2

/-- The selector byte of R1 (R17). -/
theorem names_r1 : Names 0x01 .r1 := .inl ⟨rfl, rfl⟩

/-- The selector byte of R2 (R17). -/
theorem names_r2 : Names 0x02 .r2 := .inr ⟨rfl, rfl⟩

/-- Settles O16: `exec_add_completes` for each pair of selectors, which write one register and `pc` alone. -/
theorem addPutsSumInFirstRegister : Obligations.AddPutsSumInFirstRegister :=
  fun _ h1 h2 =>
    ⟨exec_add_completes names_r1 names_r1 h1 h2, exec_add_completes names_r1 names_r2 h1 h2,
      exec_add_completes names_r2 names_r1 h1 h2, exec_add_completes names_r2 names_r2 h1 h2⟩

/-- Settles O17: `exec_sub_completes` for each pair of selectors, which write one register and `pc` alone. -/
theorem subPutsDifferenceInFirstRegister : Obligations.SubPutsDifferenceInFirstRegister :=
  fun _ h1 h2 =>
    ⟨exec_sub_completes names_r1 names_r1 h1 h2, exec_sub_completes names_r1 names_r2 h1 h2,
      exec_sub_completes names_r2 names_r1 h1 h2, exec_sub_completes names_r2 names_r2 h1 h2⟩

end Sys2Proof.Machine
end

section
/-! The encoding (R50 to R52, R56): the rows of the opcode table by the operand bytes their opcode takes. The four opcodes
that have a handler of their own take two; every other opcode byte is a whole instruction. The decoder and the encoder are
each said once per row, and the round trips are read off. -/

namespace Sys2Proof

variable {op : Byte} {mk : Byte → Byte → Instr} {i : Instr} {rest : List Byte}

/-- The opcodes of the 3-byte instructions, each with the instruction it makes of its two operand bytes (R50, R51, R56). -/
inductive OperandRow : Byte → (Byte → Byte → Instr) → Prop where
  | load : OperandRow 0x01 .load
  | store : OperandRow 0x02 .store
  | add : OperandRow 0x03 .add
  | sub : OperandRow 0x04 .sub

/-! ### The 3-byte instructions -/

theorem OperandRow.opcode (h : OperandRow op mk) : op = 0x01 ∨ op = 0x02 ∨ op = 0x03 ∨ op = 0x04 := by
  cases h <;> decide

theorem exists_operandRow (h : op = 0x01 ∨ op = 0x02 ∨ op = 0x03 ∨ op = 0x04) : ∃ mk, OperandRow op mk := by
  obtain rfl | rfl | rfl | rfl := h
  exacts [⟨_, .load⟩, ⟨_, .store⟩, ⟨_, .add⟩, ⟨_, .sub⟩]

theorem OperandRow.wellFormed (h : OperandRow op mk) (a b : Byte) : (mk a b).wellFormed = true := by
  cases h <;> rfl

theorem OperandRow.encode (h : OperandRow op mk) (a b : Byte) : encode (mk a b) = [op, a, b] := by
  cases h <;> rfl

theorem OperandRow.decode (h : OperandRow op mk) (rest : List Byte) :
    decode (op :: rest) = decodeOperands mk op rest := by
  cases h <;> rfl

/-- The two operand bytes are there, and the rest is what follows them. -/
theorem decodeOperands_ok {bs : List Byte} :
    decodeOperands mk op bs = .ok (i, rest) ↔ ∃ a b, bs = a :: b :: rest ∧ mk a b = i := by
  match bs with
  | [] | [_] => simp [decodeOperands]
  | a :: b :: bs => simp [decodeOperands, and_comm]

/-- Operand bytes are refused only when there are fewer than two (R50). -/
theorem decodeOperands_error {bs : List Byte} {e : DecodeError} :
    decodeOperands mk op bs = .error e ↔ bs.length < 2 ∧ e = .missingOperands op := by
  match bs with
  | [] | [_] => simp [decodeOperands, eq_comm]
  | a :: b :: bs => simp [decodeOperands]

/-! ### The opcode bytes that are fetched alone -/

/-- `(unknown)` stands for an encoding exactly when no other row matches its byte (R52). -/
theorem wellFormed_unknown : (Instr.unknown op).wellFormed = true ↔ op ∉ namedOpcodes := by
  simp [Instr.wellFormed]

/-- A byte that no other row matches decodes to `(unknown)` (R56, R58). -/
theorem decode_unknown (h : op ∉ namedOpcodes) : decode (op :: rest) = .ok (.unknown op, rest) := by
  simp_all [namedOpcodes, decode]

/-- An opcode byte that takes no operands is the whole encoding of a well-formed instruction (R50, R67). -/
theorem exists_encode_eq_singleton (h : ¬(op = 0x01 ∨ op = 0x02 ∨ op = 0x03 ∨ op = 0x04)) :
    ∃ i : Instr, i.wellFormed = true ∧ encode i = [op] := by
  by_cases hn : op ∈ namedOpcodes
  · simp only [namedOpcodes, List.mem_cons, List.not_mem_nil, or_false] at hn
    obtain h1 | h2 | h3 | h4 | rfl | rfl | rfl | rfl | rfl := hn
    · exact absurd (.inl h1) h
    · exact absurd (.inr (.inl h2)) h
    · exact absurd (.inr (.inr (.inl h3))) h
    · exact absurd (.inr (.inr (.inr h4))) h
    exacts [⟨.halt, rfl, rfl⟩, ⟨.reservedAddi, rfl, rfl⟩, ⟨.reservedSubi, rfl, rfl⟩, ⟨.reservedJump, rfl, rfl⟩,
      ⟨.reservedBeqz, rfl, rfl⟩]
  · exact ⟨.unknown op, wellFormed_unknown.2 hn, rfl⟩

/-! ### The obligations -/

/-- Settles O1, by cases on the instruction: a row of the table is decoded by its opcode byte, and `(unknown)` by the byte
being none of theirs. -/
theorem decodeUndoesEncode : Obligations.DecodeUndoesEncode := by
  intro i rest h
  cases i with
  | load s a => exact OperandRow.load.decode _
  | store s a => exact OperandRow.store.decode _
  | add d t => exact OperandRow.add.decode _
  | sub d t => exact OperandRow.sub.decode _
  | halt => rfl
  | reservedAddi => rfl
  | reservedSubi => rfl
  | reservedJump => rfl
  | reservedBeqz => rfl
  | unknown op => exact decode_unknown (wellFormed_unknown.1 h)

/-- How a stream decodes whose opcode byte takes no operands: to that byte's instruction, with everything after it left. -/
theorem exists_decode_single (h : ¬(op = 0x01 ∨ op = 0x02 ∨ op = 0x03 ∨ op = 0x04)) :
    ∃ i : Instr, i.wellFormed = true ∧ encode i = [op] ∧ ∀ rest, decode (op :: rest) = .ok (i, rest) := by
  obtain ⟨i, hw, he⟩ := exists_encode_eq_singleton h
  exact ⟨i, hw, he, fun rest => by simpa [he] using decodeUndoesEncode i rest hw⟩

/-- Settles O2, by the number of operand bytes that the opcode takes. -/
theorem encodeUndoesDecode : Obligations.EncodeUndoesDecode := by
  intro bs i rest h
  cases bs with
  | nil => simp [decode] at h
  | cons op bs =>
    by_cases hop : op = 0x01 ∨ op = 0x02 ∨ op = 0x03 ∨ op = 0x04
    · obtain ⟨mk, hrow⟩ := exists_operandRow hop
      rw [hrow.decode, decodeOperands_ok] at h
      obtain ⟨a, b, rfl, rfl⟩ := h
      exact ⟨hrow.wellFormed a b, by rw [hrow.encode]; rfl⟩
    · obtain ⟨j, hw, he, hd⟩ := exists_decode_single hop
      obtain ⟨rfl, rfl⟩ : j = i ∧ bs = rest := by simpa [hd] using h
      exact ⟨hw, by rw [he]; rfl⟩

/-- Settles O3: an opcode byte that takes no operands is never refused, and the others only for their operand bytes. -/
theorem decoderRefusesOnlyCutStreams : Obligations.DecoderRefusesOnlyCutStreams := by
  intro bs e
  cases bs with
  | nil => simp [decode, eq_comm]
  | cons op bs =>
    by_cases hop : op = 0x01 ∨ op = 0x02 ∨ op = 0x03 ∨ op = 0x04
    · obtain ⟨mk, hrow⟩ := exists_operandRow hop
      rw [hrow.decode, decodeOperands_error]
      constructor
      · rintro ⟨hlen, rfl⟩
        exact .inr ⟨op, bs, rfl, hop, hlen, rfl⟩
      · rintro (⟨hnil, -⟩ | ⟨op', rest, heq, -, hlen, rfl⟩)
        · simp at hnil
        · obtain ⟨rfl, rfl⟩ := List.cons.inj heq
          exact ⟨hlen, rfl⟩
    · obtain ⟨j, -, -, hd⟩ := exists_decode_single hop
      rw [hd]
      simp only [reduceCtorEq, false_and, false_or, false_iff]
      rintro ⟨op', rest, heq, hop', -⟩
      obtain ⟨rfl, -⟩ := List.cons.inj heq
      exact hop hop'

/-- Settles O4: each word is a literal, which the decoder computes. -/
theorem writtenOutWordsDecode : Obligations.WrittenOutWordsDecode := by
  unfold Obligations.WrittenOutWordsDecode
  decide

/-- An instruction's encoding has as many bytes as R50 gives it. -/
theorem encode_length (i : Instr) : (encode i).length = i.length := by
  cases i with
  | load s a => exact Laws.EncodeLength.load s a
  | store s a => exact Laws.EncodeLength.store s a
  | add d t => exact Laws.EncodeLength.add d t
  | sub d t => exact Laws.EncodeLength.sub d t
  | halt => exact Laws.EncodeLength.halt
  | reservedAddi => exact Laws.EncodeLength.reservedAddi
  | reservedSubi => exact Laws.EncodeLength.reservedSubi
  | reservedJump => exact Laws.EncodeLength.reservedJump
  | reservedBeqz => exact Laws.EncodeLength.reservedBeqz
  | unknown op => exact Laws.EncodeLength.unknown op

/-- The opcode byte of an encoding fixes how many bytes follow it (R50). -/
theorem operandCount_of_encode (hw : i.wellFormed = true) (h : encode i = op :: rest) :
    operandCount op = rest.length := by
  cases i with
  | load | store | add | sub | halt | reservedAddi | reservedSubi | reservedJump | reservedBeqz =>
    obtain ⟨rfl, rfl⟩ := List.cons.inj h
    rfl
  | unknown b =>
    obtain ⟨rfl, rfl⟩ := List.cons.inj h
    have hn := wellFormed_unknown.1 hw
    simp_all [namedOpcodes, operandCount]

/-- Settles O5: the length of an encoding, and the opcode byte's count of what follows it. -/
theorem encodingHasItsLength : Obligations.EncodingHasItsLength :=
  ⟨encode_length, fun _ _ => ⟨rfl, rfl, rfl, rfl⟩, rfl, fun _ => rfl, rfl, rfl, rfl, rfl,
    fun _ _ _ => operandCount_of_encode⟩

end Sys2Proof
end

section
/-! The memory's canonical form (log 4), and the image that `start` lays (R30, R97). -/

namespace Sys2Proof.Machine

/-- The listed cell of lowest address holds its byte, which is not the byte of an unlisted cell. -/
theorem Memory.read_head_ne_zero {lo k : Nat} {v : Byte} {m : Memory} (h : Memory.wfFrom lo ((k, v) :: m) = true) :
    Memory.read ((k, v) :: m) k ≠ 0 := by
  obtain ⟨-, -, hv, -⟩ := Memory.wfFrom_cons.1 h
  simpa [Memory.read_cons] using hv

/-- Two non-empty lists in canonical form with the same cells begin at the same address: the lower of the two would hold
a byte that the other leaves unlisted. -/
theorem Memory.head_le_of_read_eq {lo lo' k k' : Nat} {v v' : Byte} {m n : Memory}
    (hm : Memory.wfFrom lo ((k, v) :: m) = true) (hn : Memory.wfFrom lo' ((k', v') :: n) = true)
    (heq : ∀ a, a < 256 → Memory.read ((k, v) :: m) a = Memory.read ((k', v') :: n) a) : k' ≤ k := by
  by_contra hlt
  obtain ⟨-, hk, -, -⟩ := Memory.wfFrom_cons.1 hm
  obtain ⟨-, hk', hv', hn'⟩ := Memory.wfFrom_cons.1 hn
  have hbelow : Memory.read ((k', v') :: n) k = 0 :=
    Memory.read_below (Memory.wfFrom_cons.2 ⟨Nat.le_refl k', hk', hv', hn'⟩) (by omega)
  exact Memory.read_head_ne_zero hm ((heq k hk).trans hbelow)

/-- Lists in canonical form, wherever they begin, are equal when they hold the same 256 bytes. -/
theorem Memory.eq_of_read_eq :
    ∀ {lo lo' : Nat} {m n : Memory}, Memory.wfFrom lo m = true → Memory.wfFrom lo' n = true →
      (∀ a, a < 256 → m.read a = n.read a) → m = n
  | _, _, [], [], _, _, _ => rfl
  | _, _, (k, v) :: m, [], hm, _, heq =>
    absurd (heq k (Memory.wfFrom_cons.1 hm).2.1) (Memory.read_head_ne_zero hm)
  | _, _, [], (k, v) :: n, _, hn, heq =>
    absurd (heq k (Memory.wfFrom_cons.1 hn).2.1).symm (Memory.read_head_ne_zero hn)
  | _, _, (k, v) :: m, (k', v') :: n, hm, hn, heq => by
    obtain rfl : k = k' :=
      Nat.le_antisymm (Memory.head_le_of_read_eq hn hm fun a ha => (heq a ha).symm)
        (Memory.head_le_of_read_eq hm hn heq)
    obtain ⟨-, hk, -, hm'⟩ := Memory.wfFrom_cons.1 hm
    obtain ⟨-, -, -, hn'⟩ := Memory.wfFrom_cons.1 hn
    have hv : v = v' := by simpa [Memory.read_cons] using heq k hk
    have htail : ∀ a, a < 256 → Memory.read m a = Memory.read n a := by
      intro a ha
      by_cases hak : a = k
      · rw [Memory.read_below hm' (by omega), Memory.read_below hn' (by omega)]
      · simpa [Memory.read_cons, hak] using heq a ha
    rw [hv, Memory.eq_of_read_eq hm' hn' htail]

/-- Settles O13: `Memory.eq_of_read_eq` for lists that may begin at cell 0. -/
theorem sameCellsSameMemory : Obligations.SameCellsSameMemory :=
  fun _ _ hm hn heq => Memory.eq_of_read_eq hm hn heq

/-- An image of zero bytes lists no cell. -/
theorem Memory.ofBytes_replicate_zero (n lo : Nat) : Memory.ofBytes lo (List.replicate n 0) = [] := by
  induction n generalizing lo with
  | zero => rfl
  | succ n ih => exact ih (lo + 1)

/-- Cell `a` after `start` holds byte `a` of the image (R30). -/
theorem State.read_start (image : Vector Byte 256) {a : Nat} (h : a < 256) :
    (State.start image).mem.read a = image[a] := by
  have hlen : a < image.toList.length := by simpa using h
  calc (State.start image).mem.read a
      = (Memory.ofBytes 0 image.toList).read (0 + a) := by rw [State.start_mem, Nat.zero_add]
    _ = image.toList[a] := Memory.read_ofBytes hlen (by simp)
    _ = image[a] := Vector.getElem_toList hlen

/-- `start` with the image of zero bytes is the reset state (log 1). -/
theorem State.start_zero : State.start (Vector.replicate 256 0) = State.reset := by
  rw [State.start, Vector.toList_replicate, Memory.ofBytes_replicate_zero, State.reset]

/-- Settles O42: `start` writes the memory of the reset state and nothing else. -/
theorem startLaysTheImage : Obligations.StartLaysTheImage :=
  ⟨fun image => ⟨fun _ h => State.read_start image h, State.start_r1 image, State.start_r2 image, State.start_pc image,
    State.start_run image, State.start_fault image⟩, State.start_zero⟩

/-- Settles O44: an image is in canonical form, and `start` begins the path of `pc` with no fault. -/
theorem startIsSound : Obligations.StartIsSound :=
  fun image => ⟨Memory.wf_ofImage image, by simp [State.faultAgrees], 0, by omega, State.start_pc image⟩

/-- Settles O43: the reset state is the one after `start` with the image of zero bytes. -/
theorem resetIsSound : Obligations.ResetIsSound := by
  unfold Obligations.ResetIsSound
  rw [← State.start_zero]
  exact startIsSound _

/-- Settles O49: the path of R21 begins at 8 and ends at 254. -/
theorem soundPcFitsItsSlot : Obligations.SoundPcFitsItsSlot := by
  intro s hs
  obtain ⟨k, hk, hpc⟩ := hs.path
  simp only [Config.pcWidth]
  omega

end Sys2Proof.Machine
end

section
/-! The accessors, the selector and the ALU in the numbers of the spec (R33, R34, R53, R80), and what the instructions that
complete do with one register or one cell (R75, R79). -/

namespace Sys2Proof.Machine

/-- Settles O8: the two selector bytes, and the record of any other. -/
theorem selectorNamesR1OrR2 : Obligations.SelectorNamesR1OrR2 :=
  fun _ _ => ⟨fun h => selector_ok.2 (.inl ⟨h, rfl⟩), fun h => selector_ok.2 (.inr ⟨h, rfl⟩),
    fun h1 h2 => selector_error.2 ⟨⟨h1, h2⟩, rfl⟩⟩

/-- Settles O11: what `FetchByte` answers and what it raises. -/
theorem fetchByteStaysInItsWindow : Obligations.FetchByteStaysInItsWindow :=
  fun _ _ => ⟨fun h => State.fetchByte_ok.2 ⟨h, rfl⟩, fun h => State.fetchByte_error.2 ⟨by omega, rfl⟩⟩

/-- Settles O12: what the two data accessors answer and raise; the cell written and the others are those of
`Memory.write`. -/
theorem dataAccessStaysInItsWindow : Obligations.DataAccessStaysInItsWindow :=
  fun _ _ _ => ⟨fun h => State.dataRead_ok.2 ⟨h, rfl⟩, fun h => State.dataRead_error.2 ⟨h, rfl⟩,
    fun h => State.dataWrite_error.2 ⟨h, rfl⟩,
    fun h hm => ⟨_, State.dataWrite_ok.2 ⟨h, rfl⟩, rfl, Memory.read_write_self hm,
      fun _ hx => Memory.read_write_other hx⟩⟩

/-! ### The ALU -/

theorem aluAdd_eq_add (a b : Byte) : aluAdd a b = a + b :=
  BitVec.eq_of_toNat_eq ((toNat_aluAdd a b).trans (BitVec.toNat_add a b).symm)

theorem aluSub_eq_sub (a b : Byte) : aluSub a b = a - b := by
  have hb : b.toNat < 256 := b.isLt
  have hsub : (a - b).toNat = (256 - b.toNat + a.toNat) % 256 := BitVec.toNat_sub a b
  apply BitVec.eq_of_toNat_eq
  rw [toNat_aluSub, hsub]
  omega

/-- Settles O10: the ALU's functions are those of 8-bit words, whose signed reading the library gives. -/
theorem aluIsTwosComplement : Obligations.AluIsTwosComplement := by
  intro a b
  rw [aluAdd_eq_add, aluSub_eq_sub]
  exact ⟨BitVec.toInt_add a b, BitVec.toInt_sub⟩

/-! ### One register, one cell -/

/-- Settles O18: the instruction completes, and the register named twice holds its sum or difference with itself. -/
theorem sameRegisterDoublesOrClears : Obligations.SameRegisterDoublesOrClears := by
  intro s b r h1 h2 hb
  refine ⟨⟨_, execAlu_completes aluAdd hb hb h1 h2, ?_⟩, ⟨_, execAlu_completes aluSub hb hb h1 h2, ?_⟩⟩
  · rw [State.advance_reg, State.reg_setReg_same, toNat_aluAdd, two_mul]
  · rw [State.advance_reg, State.reg_setReg_same, aluSub_eq_sub]
    exact BitVec.sub_self _

/-- Settles O40: both instructions complete, and the cell that LOAD reads holds what STORE wrote. -/
theorem loadAfterStoreGivesTheStoredByte : Obligations.LoadAfterStoreGivesTheStoredByte := by
  intro s s1 s2 b b' a r r' hm ha hb hb' h1 h2 h1' h2' hstore hcell
  obtain ⟨m, hexec, -, hread, -⟩ := exists_execStore_mem hm hb h1 h2 ha
  obtain rfl : { s with mem := m, pc := s.pc + 3 } = s1 := Host.Outcome.next.inj (hexec.symm.trans hstore)
  refine ⟨_, execLoad_completes hb' h1' h2' ha, ?_⟩
  rw [State.advance_reg, State.reg_setReg_same, hcell]
  exact hread

end Sys2Proof.Machine
end

section
/-! The order of the checks (R86, D3): a handler ends with the fault of the first operand that raises, whatever its later
operands are. -/

namespace Sys2Proof.Machine

variable {s : State} {b : Byte} {f : FaultRecord} {α : Type} {x : Except FaultRecord α}
  {g : α → Except FaultRecord State}

/-- A handler whose next part raises ends with that fault (R11). -/
theorem finish_bind_error (h : x = .error f) : finish s (x >>= g) = .next (s.raise f) := by
  rw [h]
  rfl

/-- A handler whose next part answers goes on with the answer. -/
theorem finish_bind_ok {y : α} (h : x = .ok y) : finish s (x >>= g) = finish s (g y) := by
  rw [h]
  rfl

/-- Once fetched in the window, the byte 1 or 2 names a register (R53). -/
theorem exists_selectorOperand_of_window {k : Nat} (hw : InWindow (s.pc + k)) (hb : b = 0x01 ∨ b = 0x02) :
    ∃ r, selectorOperand s.pc k b = .ok r :=
  (exists_selectorOperand_ok hw).2 (by simpa [isSelector] using hb)

/-- Order 4 of R86: the fetch of an operand byte outside the window raises OutOfRange, whatever the byte. -/
theorem selectorOperand_outside {k : Nat} (hw : ¬InWindow (s.pc + k)) :
    selectorOperand s.pc k b = .error (.outOfRange (s.pc + k) .fetch) :=
  selectorOperand_error.2 (.inl ⟨hw, rfl⟩)

/-- A byte fetched in the window that is no selector raises InvalidOperand (R53, R83). -/
theorem selectorOperand_invalid {k : Nat} (hw : InWindow (s.pc + k)) (h1 : b ≠ 0x01) (h2 : b ≠ 0x02) :
    selectorOperand s.pc k b = .error (.invalidOperand b (s.pc + k)) :=
  selectorOperand_error.2 (.inr ⟨hw, ⟨h1, h2⟩, rfl⟩)

/-- Settles O22: the first operand, the second, and the data access, in this order; a check that raises ends the handler. -/
theorem loadAndStoreCheckInOrder : Obligations.LoadAndStoreCheckInOrder := by
  intro s b a
  refine ⟨fun hw => ?_, fun hw h1 h2 => ?_, fun hw hb hw2 => ?_, fun hw hb hw2 ha => ?_⟩
  · exact ⟨finish_bind_error (selectorOperand_outside hw), finish_bind_error (selectorOperand_outside hw)⟩
  · exact ⟨finish_bind_error (selectorOperand_invalid hw h1 h2), finish_bind_error (selectorOperand_invalid hw h1 h2)⟩
  · obtain ⟨r, hr⟩ := exists_selectorOperand_of_window hw hb
    have herr : addressOperand s.pc 2 a = .error (.outOfRange (s.pc + 2) .fetch) := addressOperand_error.2 ⟨hw2, rfl⟩
    exact ⟨(finish_bind_ok hr).trans (finish_bind_error herr), (finish_bind_ok hr).trans (finish_bind_error herr)⟩
  · obtain ⟨r, hr⟩ := exists_selectorOperand_of_window hw hb
    have hok : addressOperand s.pc 2 a = .ok a.toNat := addressOperand_ok.2 ⟨hw2, rfl⟩
    exact ⟨(finish_bind_ok hr).trans ((finish_bind_ok hok).trans (finish_bind_error (State.dataRead_error.2 ⟨ha, rfl⟩))),
      (finish_bind_ok hr).trans ((finish_bind_ok hok).trans (finish_bind_error (State.dataWrite_error.2 ⟨ha, rfl⟩)))⟩

/-- The checks of the handler that ADD and SUB share, in order; the operation has no part in them. -/
theorem execAlu_checks_in_order (op : Byte → Byte → Byte) (s : State) (d t : Byte) :
    (¬InWindow (s.pc + 1) → execAlu op d t s = .next (s.raise (.outOfRange (s.pc + 1) .fetch))) ∧
    (InWindow (s.pc + 1) → d ≠ 0x01 → d ≠ 0x02 →
      execAlu op d t s = .next (s.raise (.invalidOperand d (s.pc + 1)))) ∧
    (InWindow (s.pc + 1) → d = 0x01 ∨ d = 0x02 → ¬InWindow (s.pc + 2) →
      execAlu op d t s = .next (s.raise (.outOfRange (s.pc + 2) .fetch))) ∧
    (InWindow (s.pc + 1) → d = 0x01 ∨ d = 0x02 → InWindow (s.pc + 2) → t ≠ 0x01 → t ≠ 0x02 →
      execAlu op d t s = .next (s.raise (.invalidOperand t (s.pc + 2)))) := by
  refine ⟨fun hw => ?_, fun hw h1 h2 => ?_, fun hw hd hw2 => ?_, fun hw hd hw2 h1 h2 => ?_⟩
  · exact finish_bind_error (selectorOperand_outside hw)
  · exact finish_bind_error (selectorOperand_invalid hw h1 h2)
  · obtain ⟨r, hr⟩ := exists_selectorOperand_of_window hw hd
    exact (finish_bind_ok hr).trans (finish_bind_error (selectorOperand_outside hw2))
  · obtain ⟨r, hr⟩ := exists_selectorOperand_of_window hw hd
    exact (finish_bind_ok hr).trans (finish_bind_error (selectorOperand_invalid hw2 h1 h2))

/-- Settles O23: ADD and SUB are one handler at two operations. -/
theorem addAndSubCheckInOrder : Obligations.AddAndSubCheckInOrder := by
  intro s d t
  obtain ⟨hadd1, hadd2, hadd3, hadd4⟩ := execAlu_checks_in_order aluAdd s d t
  obtain ⟨hsub1, hsub2, hsub3, hsub4⟩ := execAlu_checks_in_order aluSub s d t
  exact ⟨fun hw => ⟨hadd1 hw, hsub1 hw⟩, fun hw h1 h2 => ⟨hadd2 hw h1 h2, hsub2 hw h1 h2⟩,
    fun hw hd hw2 => ⟨hadd3 hw hd hw2, hsub3 hw hd hw2⟩,
    fun hw hd hw2 h1 h2 => ⟨hadd4 hw hd hw2 h1 h2, hsub4 hw hd hw2 h1 h2⟩⟩

/-! ### At the top of the instruction window (R72) -/

/-- The checks that the four handlers share (R86): those of the first operand, and the fetch of the second. -/
theorem exec_operandRow_checks_in_order {op : Byte} {mk : Byte → Byte → Instr} (h : OperandRow op mk) (s : State)
    (b a : Byte) :
    (¬InWindow (s.pc + 1) → exec (mk b a) s = .next (s.raise (.outOfRange (s.pc + 1) .fetch))) ∧
    (InWindow (s.pc + 1) → b ≠ 0x01 → b ≠ 0x02 →
      exec (mk b a) s = .next (s.raise (.invalidOperand b (s.pc + 1)))) ∧
    (InWindow (s.pc + 1) → b = 0x01 ∨ b = 0x02 → ¬InWindow (s.pc + 2) →
      exec (mk b a) s = .next (s.raise (.outOfRange (s.pc + 2) .fetch))) := by
  obtain ⟨hls1, hls2, hls3, -⟩ := loadAndStoreCheckInOrder s b a
  obtain ⟨has1, has2, has3, -⟩ := addAndSubCheckInOrder s b a
  cases h with
  | load => exact ⟨fun h => (hls1 h).1, fun h h1 h2 => (hls2 h h1 h2).1, fun h hb h2 => (hls3 h hb h2).1⟩
  | store => exact ⟨fun h => (hls1 h).2, fun h h1 h2 => (hls2 h h1 h2).2, fun h hb h2 => (hls3 h hb h2).2⟩
  | add => exact ⟨fun h => (has1 h).1, fun h h1 h2 => (has2 h h1 h2).1, fun h hb h2 => (has3 h hb h2).1⟩
  | sub => exact ⟨fun h => (has1 h).2, fun h h1 h2 => (has2 h h1 h2).2, fun h hb h2 => (has3 h hb h2).2⟩

/-- A step at the opcode of a 3-byte instruction executes it with the two bytes that the fetch unit supplies (R63). -/
theorem step_of_operandRow {op : Byte} {mk : Byte → Byte → Instr} (h : OperandRow op mk) (hr : s.run = .running)
    (hp : InWindow s.pc) (ho : s.mem.read s.pc = op) :
    step s = exec (mk (s.operandAt (s.pc + 1)) (s.operandAt (s.pc + 2))) s := by
  simp only [step_of_fetched hr hp ho, State.instrBytes_three h.opcode, h.decode, decodeOperands]

/-- Settles O30: the checks of `exec_operandRow_checks_in_order` where `pc + 2`, and at 255 `pc + 1` too, is past the top. -/
theorem operandFetchPastTheTopFaults : Obligations.OperandFetchPastTheTopFaults := by
  intro s hr hop
  obtain ⟨mk, hrow⟩ := exists_operandRow (op := s.mem.read s.pc) (by simpa using hop)
  obtain ⟨hfetch1, hsel1, hfetch2⟩ :=
    exec_operandRow_checks_in_order hrow s (s.operandAt (s.pc + 1)) (s.operandAt (s.pc + 2))
  have hstep (hp : InWindow s.pc) := step_of_operandRow hrow hr hp rfl
  have hbyte (hpc : s.pc = 254) : s.operandAt (s.pc + 1) = s.mem.read 255 := by
    rw [State.operandAt_inWindow (by omega), hpc]
  refine ⟨fun hpc hb => ?_, fun hpc h1 h2 => ?_, fun hpc => ?_⟩
  · change step s = .next (s.raise (.outOfRange 256 .fetch))
    rw [hstep (by omega), hfetch2 (by omega) (by rwa [hbyte hpc]) (by omega), hpc]
  · change step s = .next (s.raise (.invalidOperand (s.mem.read 255) 255))
    rw [hstep (by omega), hsel1 (by omega) (by rwa [hbyte hpc]) (by rwa [hbyte hpc]), hbyte hpc, hpc]
  · change step s = .next (s.raise (.outOfRange 256 .fetch))
    rw [hstep (by omega), hfetch1 (by omega), hpc]

end Sys2Proof.Machine
end

section
/-! How an instruction can end, with the record of a fault never NONE, and the frames that follow (R11, R18, R66 to R69). The
cases are those of the checks in order (R86): a check raises its record, or all pass and the handler completes. -/

namespace Sys2Proof.Machine

variable {s t : State} {b b1 b2 op : Byte}

/-- An outcome has one next state. -/
theorem eq_of_next {o : Host.Outcome State Fault Refusal} {u v : State} (hu : o = .next u) (hv : o = .next v) : u = v :=
  Host.Outcome.next.inj (hu.symm.trans hv)

/-- How an instruction that writes a register can end: with a fault, or with the register that its first operand byte
names written and `pc` moved on (R11, R69). -/
inductive RegisterEnd (s : State) (b : Byte) : State → Prop where
  | raised {f : FaultRecord} (hf : f ≠ .noFault) : RegisterEnd s b (s.raise f)
  | wrote {r : Reg} (v : Byte) (hb : Names b r) (hw : InWindow (s.pc + 2)) : RegisterEnd s b (s.setReg r v).advance

/-- How STORE can end: with a fault, or with the register that its first operand byte names written to the cell that its
second gives, and `pc` moved on (R74). -/
inductive StoreEnd (s : State) (b1 b2 : Byte) : State → Prop where
  | raised {f : FaultRecord} (hf : f ≠ .noFault) : StoreEnd s b1 b2 (s.raise f)
  | wrote {r : Reg} (hb : Names b1 r) (hw : InWindow (s.pc + 2)) (ha : b2.toNat < 8) :
      StoreEnd s b1 b2 (State.advance { s with mem := s.mem.write b2.toNat (s.reg r) })

theorem exists_names (hb : b = 0x01 ∨ b = 0x02) : ∃ r, Names b r := by
  obtain rfl | rfl := hb
  exacts [⟨.r1, names_r1⟩, ⟨.r2, names_r2⟩]

/-- The checks that the four handlers share either raise or pass (R86). -/
theorem exec_operandRow_raises_or_passes {mk : Byte → Byte → Instr} (h : OperandRow op mk) (s : State) (b1 b2 : Byte) :
    (∃ f, f ≠ .noFault ∧ exec (mk b1 b2) s = .next (s.raise f)) ∨
      (InWindow (s.pc + 1) ∧ InWindow (s.pc + 2) ∧ ∃ r, Names b1 r) := by
  obtain ⟨hfetch1, hsel1, hfetch2⟩ := exec_operandRow_checks_in_order h s b1 b2
  by_cases hw1 : InWindow (s.pc + 1)
  · by_cases hb : b1 = 0x01 ∨ b1 = 0x02
    · by_cases hw2 : InWindow (s.pc + 2)
      · exact .inr ⟨hw1, hw2, exists_names hb⟩
      · exact .inl ⟨_, by simp, hfetch2 hw1 hb hw2⟩
    · exact .inl ⟨_, by simp, hsel1 hw1 (fun h => hb (.inl h)) (fun h => hb (.inr h))⟩
  · exact .inl ⟨_, by simp, hfetch1 hw1⟩

theorem exec_load_end (h : exec (.load b1 b2) s = .next t) : RegisterEnd s b1 t := by
  obtain ⟨f, hf, hraise⟩ | ⟨hw1, hw2, r, hb⟩ := exec_operandRow_raises_or_passes .load s b1 b2
  · obtain rfl := eq_of_next hraise h
    exact .raised hf
  · by_cases ha : b2.toNat < 8
    · obtain rfl := eq_of_next (execLoad_completes hb hw1 hw2 ha) h
      exact .wrote _ hb hw2
    · obtain ⟨-, -, -, hdata⟩ := loadAndStoreCheckInOrder s b1 b2
      obtain ⟨hraise, -⟩ := hdata hw1 (hb.imp And.left And.left) hw2 (by omega)
      obtain rfl := eq_of_next hraise h
      exact .raised (f := .outOfRange b2.toNat .dataRead) (by simp)

theorem exec_store_end (h : exec (.store b1 b2) s = .next t) : StoreEnd s b1 b2 t := by
  obtain ⟨f, hf, hraise⟩ | ⟨hw1, hw2, r, hb⟩ := exec_operandRow_raises_or_passes .store s b1 b2
  · obtain rfl := eq_of_next hraise h
    exact .raised hf
  · by_cases ha : b2.toNat < 8
    · obtain rfl := eq_of_next (execStore_completes hb hw1 hw2 ha) h
      exact .wrote hb hw2 ha
    · obtain ⟨-, -, -, hdata⟩ := loadAndStoreCheckInOrder s b1 b2
      obtain ⟨-, hraise⟩ := hdata hw1 (hb.imp And.left And.left) hw2 (by omega)
      obtain rfl := eq_of_next hraise h
      exact .raised (f := .outOfRange b2.toNat .dataWrite) (by simp)

/-- ADD and SUB, once their shared checks have passed: the second selector raises or names a register. -/
theorem execAlu_end {alu : Byte → Byte → Byte} (hw1 : InWindow (s.pc + 1)) (hw2 : InWindow (s.pc + 2))
    {r : Reg} (hb : Names b1 r) (h : execAlu alu b1 b2 s = .next t) : RegisterEnd s b1 t := by
  by_cases hb2 : b2 = 0x01 ∨ b2 = 0x02
  · obtain ⟨q, hq⟩ := exists_names hb2
    obtain rfl := eq_of_next (execAlu_completes alu hb hq hw1 hw2) h
    exact .wrote _ hb hw2
  · obtain ⟨-, -, -, hsel2⟩ := execAlu_checks_in_order alu s b1 b2
    have hraise := hsel2 hw1 (hb.imp And.left And.left) hw2 (fun h => hb2 (.inl h)) (fun h => hb2 (.inr h))
    obtain rfl := eq_of_next hraise h
    exact .raised (by simp)

theorem exec_add_end (h : exec (.add b1 b2) s = .next t) : RegisterEnd s b1 t := by
  obtain ⟨f, hf, hraise⟩ | ⟨hw1, hw2, r, hb⟩ := exec_operandRow_raises_or_passes .add s b1 b2
  · obtain rfl := eq_of_next hraise h
    exact .raised hf
  · exact execAlu_end hw1 hw2 hb h

theorem exec_sub_end (h : exec (.sub b1 b2) s = .next t) : RegisterEnd s b1 t := by
  obtain ⟨f, hf, hraise⟩ | ⟨hw1, hw2, r, hb⟩ := exec_operandRow_raises_or_passes .sub s b1 b2
  · obtain rfl := eq_of_next hraise h
    exact .raised hf
  · exact execAlu_end hw1 hw2 hb h

/-! ### Frames -/

/-- Settles O25: the three end as `RegisterEnd` says, and the register written is the one that the first operand names. -/
theorem registerInstructionsFrame : Obligations.RegisterInstructionsFrame := by
  intro s t d b h
  have hend : RegisterEnd s d t := by
    obtain h | h | h := h
    exacts [exec_load_end h, exec_add_end h, exec_sub_end h]
  cases hend with
  | raised hf => simp
  | wrote v hb hw =>
    obtain ⟨rfl, rfl⟩ | ⟨rfl, rfl⟩ := hb
    · simp
    · simp

/-- Settles O26: STORE ends as `StoreEnd` says, and the cell written is the one that the address operand gives. -/
theorem storeFrame : Obligations.StoreFrame := by
  intro s t b1 b2 h
  cases exec_store_end h with
  | raised hf => simp
  | wrote hb hw ha =>
    refine ⟨rfl, rfl, fun a haddr x hx => ?_, fun f haddr => ?_, fun _ => ⟨rfl, rfl⟩⟩
    · obtain ⟨-, rfl⟩ := addressOperand_ok.1 haddr
      exact Memory.read_write_other hx
    · exact absurd hw (addressOperand_error.1 haddr).1

/-- Settles O27: HALT changes the run state alone, and the others raise UnknownOpcode. -/
theorem controlInstructionsFrame : Obligations.ControlInstructionsFrame := by
  intro s t i op hi h
  by_cases hhalt : i = .halt
  · subst hhalt
    obtain rfl := Host.Outcome.next.inj h
    simp
  · have hraise : ∃ f, t = s.raise f := by
      simp only [List.mem_cons, List.not_mem_nil, or_false, hhalt, false_or] at hi
      obtain rfl | rfl | rfl | rfl | rfl := hi
      all_goals exact ⟨_, raiseUnknownOpcode_next.1 h⟩
    obtain ⟨f, rfl⟩ := hraise
    simp [hhalt]

end Sys2Proof.Machine
end

section
/-! The step of fetch, decode and execute (R63 to R65), by the opcode byte at `pc`: a row with operands, HALT, or a byte
without a handler. It is the pseudocode of the spec, in which each handler fetches its own operand bytes. -/

namespace Sys2Proof.Machine

variable {s : State} {op : Byte}

/-- An opcode byte takes operands, is HALT's, or has no handler (R56, R63, R67). -/
theorem opcode_cases (op : Byte) :
    (∃ mk, OperandRow op mk) ∨ op = 0xFF ∨ op ∉ ([0x01, 0x02, 0x03, 0x04, 0xFF] : List Byte) := by
  by_cases hop : op = 0x01 ∨ op = 0x02 ∨ op = 0x03 ∨ op = 0x04
  · exact .inl (exists_operandRow hop)
  · by_cases hhalt : op = 0xFF
    · exact .inr (.inl hhalt)
    · refine .inr (.inr ?_)
      simp only [List.mem_cons, List.not_mem_nil, or_false]
      tauto

/-- Settles O29: the opcode fetch is the first thing a step does, and it raises. -/
theorem opcodeFetchOutsideWindowFaults : Obligations.OpcodeFetchOutsideWindowFaults := by
  intro s hr hp
  have hf : s.fetchByte s.pc = .error (.outOfRange s.pc .fetch) := State.fetchByte_error.2 ⟨hp, rfl⟩
  simp only [step_of_running hr, stepRunning, hf, State.raise]

/-- Settles O33: the step answers `stopped` in the two run states that are not RUNNING. -/
theorem noStepAfterTheEnd : Obligations.NoStepAfterTheEnd := by
  intro s hr
  cases hrun : s.run with
  | running => exact absurd hrun hr
  | halted => simp [step, stepCore, hrun]
  | faulted => simp [step, stepCore, hrun]

/-! ### The bytes fetched and the bytes in memory -/

theorem Memory.bytesAt_succ (m : Memory) (a n : Nat) : m.bytesAt a (n + 1) = m.read a :: m.bytesAt (a + 1) n := by
  simp [Memory.bytesAt, List.range_succ_eq_map, Function.comp_def, Nat.add_comm, Nat.add_left_comm]

/-- In the instruction window, the operand bytes that the decoder is given are those in memory (R64). -/
theorem State.instrBytes_eq_bytesAt {n : Nat} (hn : operandCount op = n) (hlo : 8 ≤ s.pc) (hhi : s.pc + (n + 1) ≤ 256)
    (ho : s.mem.read s.pc = op) : s.instrBytes op = s.mem.bytesAt s.pc (n + 1) := by
  rw [Memory.bytesAt_succ, ho, State.instrBytes, hn]
  refine congrArg _ (List.map_congr_left fun k hk => ?_)
  have hk : k < n := List.mem_range.1 hk
  rw [operandAddress, State.operandAt_inWindow (by omega), Nat.add_assoc, Nat.add_comm 1 k]

/-- Settles O28: the opcode byte of a decoded instruction fixes its length, so the bytes fetched are the bytes decoded. -/
theorem stepRunsDecodedInstruction : Obligations.StepRunsDecodedInstruction := by
  intro s i hr hlo hhi hd hw
  obtain ⟨n, hn⟩ : ∃ n, i.length = n + 1 := by
    cases i with
    | load | store | add | sub => exact ⟨2, rfl⟩
    | halt | reservedAddi | reservedSubi | reservedJump | reservedBeqz | unknown => exact ⟨0, rfl⟩
  rw [hn] at hd hhi
  have henc : encode i = s.mem.read s.pc :: s.mem.bytesAt (s.pc + 1) n := by
    obtain ⟨-, he⟩ := encodeUndoesDecode _ _ _ hd
    rw [← Memory.bytesAt_succ, ← he, List.append_nil]
  have hcount : operandCount (s.mem.read s.pc) = n := by
    rw [operandCount_of_encode hw henc]
    simp [Memory.bytesAt]
  have hbytes := State.instrBytes_eq_bytesAt hcount hlo hhi rfl
  simp only [step_of_fetched hr ⟨hlo, by omega⟩ rfl, hbytes, hd]

/-! ### The pseudocode -/

/-- The fetch of an operand byte from memory is the model's bounds check of the byte it was given (R33, log 15). -/
theorem State.fetchByte_eq_operandByte (s : State) (a : Nat) : s.fetchByte a = operandByte a (s.operandAt a) := by
  by_cases hw : InWindow a
  · rw [State.fetchByte_ok.2 ⟨hw, rfl⟩, State.operandAt_inWindow hw, operandByte_ok.2 ⟨hw, rfl⟩]
  · rw [State.fetchByte_error.2 ⟨hw, rfl⟩, operandByte_error.2 ⟨hw, rfl⟩]

/-- `Sel(FetchByte(pc + k), pc + k)` is the model's selector operand (R53). -/
theorem sel_eq_selectorOperand (s : State) (k : Nat) :
    Pseudocode.sel s (s.pc + k) = selectorOperand s.pc k (s.operandAt (s.pc + k)) := by
  rw [Pseudocode.sel, State.fetchByte_eq_operandByte]
  rfl

/-- The address byte that a handler fetches, zero-extended, is the model's address operand (R54). -/
theorem addressOperand_eq_fetchByte (s : State) (k : Nat) :
    addressOperand s.pc k (s.operandAt (s.pc + k)) = s.fetchByte (s.pc + k) >>= fun b => pure b.toNat := by
  rw [State.fetchByte_eq_operandByte]
  rfl

/-- A data write keeps `pc`, so that the handler's `next` is 3 past where it began (R70). -/
theorem State.dataWrite_bind_advance (s : State) (a : Nat) (v : Byte) :
    (s.dataWrite a v >>= fun t => pure t.advance) = s.dataWrite a v >>= fun t => pure { t with pc := s.pc + 3 } := by
  by_cases ha : a < 8
  · rw [State.dataWrite_ok.2 ⟨ha, rfl⟩]
    rfl
  · rw [State.dataWrite_error.2 ⟨by omega, rfl⟩]
    rfl

/-- `next` becomes `pc` when a handler has returned (R69): the end of `Step()`. -/
def returnTo (x : Except FaultRecord (State × Nat)) : Except FaultRecord State :=
  x >>= fun p => pure { p.1 with pc := p.2 }

/-- The handlers of the table are `exec` for the operand bytes that the fetch unit supplies (R73, R74, R77, R78). -/
theorem exists_handler_eq_exec {mk : Byte → Byte → Instr} (h : OperandRow op mk) (s : State) :
    ∃ handler, Pseudocode.handler op = some handler ∧
      exec (mk (s.operandAt (s.pc + 1)) (s.operandAt (s.pc + 2))) s = finish s (returnTo (handler s)) := by
  cases h with
  | load =>
    refine ⟨Pseudocode.loadExec, rfl, congrArg (finish s) ?_⟩
    simp only [returnTo, Pseudocode.loadExec, sel_eq_selectorOperand, addressOperand_eq_fetchByte,
      bind_assoc, pure_bind, State.advance, State.setReg_pc, nextPc]
  | store =>
    refine ⟨Pseudocode.storeExec, rfl, congrArg (finish s) ?_⟩
    simp only [returnTo, Pseudocode.storeExec, sel_eq_selectorOperand, addressOperand_eq_fetchByte, bind_assoc,
      pure_bind, State.dataWrite_bind_advance]
  | add =>
    refine ⟨Pseudocode.addExec, rfl, congrArg (finish s) ?_⟩
    simp only [returnTo, Pseudocode.addExec, sel_eq_selectorOperand, bind_assoc, pure_bind, State.advance,
      State.setReg_pc, nextPc]
  | sub =>
    refine ⟨Pseudocode.subExec, rfl, congrArg (finish s) ?_⟩
    simp only [returnTo, Pseudocode.subExec, sel_eq_selectorOperand, bind_assoc, pure_bind, State.advance,
      State.setReg_pc, nextPc]

/-- `Step()` is its body, ended by a `raise` as R11 says. -/
theorem finish_body (s : State) : finish s (Pseudocode.body s) = .next (Pseudocode.step s) := by
  cases hb : Pseudocode.body s with
  | ok t => simp only [finish, Pseudocode.step, hb]
  | error f => simp only [finish, Pseudocode.step, hb, State.raise]

/-- Settles O31, by the opcode fetch and then the opcode byte, as the body of `Step()` goes on. -/
theorem stepFollowsThePseudocode : Obligations.StepFollowsThePseudocode := by
  intro s hr
  rw [← finish_body]
  by_cases hp : InWindow s.pc
  · rw [Pseudocode.body, finish_bind_ok (State.fetchByte_ok.2 ⟨hp, rfl⟩)]
    obtain ⟨mk, hrow⟩ | hhalt | hno := opcode_cases (s.mem.read s.pc)
    · obtain ⟨handler, hh, hexec⟩ := exists_handler_eq_exec hrow s
      have hop : s.mem.read s.pc ≠ Config.opHalt := by
        obtain h | h | h | h := hrow.opcode <;> simp [h]
      rw [step_of_operandRow hrow hr hp rfl, hexec, if_neg hop, hh]
      rfl
    · rw [haltStopsTheRun.2 s hr hp hhalt, if_pos hhalt]
      rfl
    · have hnone : Pseudocode.handler (s.mem.read s.pc) = none := by simp_all [Pseudocode.handler]
      have hop : s.mem.read s.pc ≠ Config.opHalt := by simp_all
      rw [step_of_noHandler hr hp rfl hno, if_neg hop, hnone]
      rfl
  · rw [opcodeFetchOutsideWindowFaults s hr hp, Pseudocode.body,
      finish_bind_error (State.fetchByte_error.2 ⟨hp, rfl⟩)]
    rfl

/-- Settles O32: the pseudocode gives every RUNNING state its next state. -/
theorem everyRunningStepHasANextState : Obligations.EveryRunningStepHasANextState :=
  fun s hr => ⟨_, stepFollowsThePseudocode s hr⟩

end Sys2Proof.Machine
end

section
/-! Everything a step can end with (R63), and the statements about one step that follow from it: the transitions of the run
state, precise faults, what changes in memory, and the invariant (R11, R15, R21, R25, R37). -/

namespace Sys2Proof.Machine

variable {s t : State}

/-- How a step can end: with a fault; at the byte 0xFF with HALTED; with a register written; or, at the opcode of STORE,
with the cell written that its operand bytes give. -/
inductive StepEnd (s : State) : State → Prop where
  | raised {f : FaultRecord} (hf : f ≠ .noFault) : StepEnd s (s.raise f)
  | halted (hp : InWindow s.pc) (ho : s.mem.read s.pc = 0xFF) : StepEnd s { s with run := .halted }
  | wroteRegister (r : Reg) (v : Byte) (hw : InWindow (s.pc + 2)) : StepEnd s (s.setReg r v).advance
  | wroteCell {r : Reg} (hw : InWindow (s.pc + 2)) (ho : s.mem.read s.pc = 0x02) (hb : Names (s.mem.read (s.pc + 1)) r)
      (ha : (s.mem.read (s.pc + 2)).toNat < 8) :
      StepEnd s (State.advance { s with mem := s.mem.write (s.mem.read (s.pc + 2)).toNat (s.reg r) })

theorem RegisterEnd.stepEnd {b : Byte} (h : RegisterEnd s b t) : StepEnd s t := by
  cases h with
  | raised hf => exact .raised hf
  | wrote v hb hw => exact .wroteRegister _ v hw

/-- The end of STORE for the bytes that the fetch unit supplies: a STORE that completes had both in the window (R64). -/
theorem StoreEnd.stepEnd (hp : InWindow s.pc) (ho : s.mem.read s.pc = 0x02)
    (h : StoreEnd s (s.operandAt (s.pc + 1)) (s.operandAt (s.pc + 2)) t) : StepEnd s t := by
  cases h with
  | raised hf => exact .raised hf
  | wrote hb hw ha =>
    rw [State.operandAt_inWindow hw] at ha ⊢
    rw [State.operandAt_inWindow (by omega)] at hb
    exact .wroteCell hw ho hb ha

/-- Every step ends as `StepEnd` says, by the opcode byte at `pc`. -/
theorem step_end (h : step s = .next t) : StepEnd s t := by
  have hr := running_of_step_next h
  by_cases hp : InWindow s.pc
  · obtain ⟨mk, hrow⟩ | hhalt | hno := opcode_cases (s.mem.read s.pc)
    · rw [step_of_operandRow hrow hr hp rfl] at h
      generalize hop : s.mem.read s.pc = op at hrow
      cases hrow with
      | load => exact (exec_load_end h).stepEnd
      | store => exact (exec_store_end h).stepEnd hp hop
      | add => exact (exec_add_end h).stepEnd
      | sub => exact (exec_sub_end h).stepEnd
    · obtain rfl := eq_of_next (haltStopsTheRun.2 s hr hp hhalt) h
      exact .halted hp hhalt
    · rw [step_of_noHandler hr hp rfl hno, raiseUnknownOpcode_next] at h
      subst h
      exact .raised (by simp)
  · obtain rfl := eq_of_next (opcodeFetchOutsideWindowFaults s hr hp) h
    exact .raised (f := .outOfRange s.pc .fetch) (by simp)

/-! ### The run state and the fault record -/

/-- In RUNNING a record that agrees with the run state is NONE (R25, R27). -/
theorem State.noFault_of_running (hs : s.faultAgrees) (hr : s.run = .running) : s.fault = .noFault := by
  simpa [State.faultAgrees, hr] using hs

/-- From RUNNING with no fault recorded, a step records a fault exactly when it ends in FAULTED (R25, R27). -/
theorem StepEnd.keeps_faultAgrees (h : StepEnd s t) (hr : s.run = .running) (hnone : s.fault = .noFault) :
    t.faultAgrees := by
  cases h with
  | raised hf => simpa [State.faultAgrees] using hf
  | halted hp ho => simp [State.faultAgrees, hnone]
  | wroteRegister r v hw => simp [State.faultAgrees, hr, hnone]
  | wroteCell hw ho hb ha => simp [State.faultAgrees, hr, hnone]

/-- Settles O34: each end of a step has its own run state and record, and the byte 0xFF always ends in HALTED. -/
theorem runStateTransitions : Obligations.RunStateTransitions := by
  intro s t hs h
  have hr := running_of_step_next h
  have hnone := State.noFault_of_running hs hr
  have hhalt : InWindow s.pc ∧ s.mem.read s.pc = 0xFF → t.run = .halted := by
    rintro ⟨hp, ho⟩
    obtain rfl := eq_of_next (haltStopsTheRun.2 s hr hp ho) h
    rfl
  refine ⟨hr, ⟨fun ht => ?_, hhalt⟩, (step_end h).keeps_faultAgrees hr hnone, fun ht => ?_⟩
  · cases step_end h with
    | halted hp ho => exact ⟨hp, ho⟩
    | raised | wroteRegister | wroteCell => simp [hr] at ht
  · cases step_end h with
    | raised => simp at ht
    | halted => rfl
    | wroteRegister => simp
    | wroteCell => rfl

/-- Settles O36: the other ends of a step leave the run state RUNNING or make it HALTED. -/
theorem faultingStepWritesNothingElse : Obligations.FaultingStepWritesNothingElse := by
  intro s t h ht
  have hr := running_of_step_next h
  cases step_end h with
  | raised hf => exact ⟨hf, rfl⟩
  | halted hp ho => simp at ht
  | wroteRegister r v hw => simp [hr] at ht
  | wroteCell hw ho hb ha => simp [hr] at ht

/-! ### Memory -/

/-- Settles O37: no other end of a step writes memory, and STORE leaves every cell but its own. -/
theorem onlyStoreChangesMemory : Obligations.OnlyStoreChangesMemory := by
  intro s t x hm h hx
  cases step_end h with
  | raised hf => exact absurd rfl hx
  | halted hp ho => exact absurd rfl hx
  | wroteRegister r v hw => simp at hx
  | @wroteCell r hw ho hb ha =>
    obtain rfl : x = (s.mem.read (s.pc + 2)).toNat := by
      by_contra hne
      exact hx (Memory.read_write_other hne)
    exact ⟨ho, rfl, ha, r, hb, Memory.read_write_self hm⟩

/-- A step changes no byte of the instruction window (R47), in canonical form or not. -/
theorem step_keeps_program_bytes (h : step s = .next t) {a : Nat} (ha : 8 ≤ a) : t.mem.read a = s.mem.read a := by
  cases step_end h with
  | raised hf => rfl
  | halted hp ho => rfl
  | wroteRegister r v hw => simp
  | wroteCell hw ho hb hlt => exact Memory.read_write_other (by omega)

theorem ReachesIn.keeps_program_bytes {n : Nat} (h : ReachesIn s n t) {a : Nat} (ha : 8 ≤ a) :
    t.mem.read a = s.mem.read a := by
  induction h with
  | refl => rfl
  | step _ hstep ih => exact (step_keeps_program_bytes hstep ha).trans ih

/-- Settles O38, by induction on the number of steps. -/
theorem programBytesNeverChange : Obligations.ProgramBytesNeverChange := by
  rintro s t ⟨n, hn⟩ a ha
  exact hn.keeps_program_bytes ha

/-! ### The invariant -/

/-- A step that ends keeps the canonical form: the one cell written is in the array (log 4). -/
theorem StepEnd.keeps_wf (h : StepEnd s t) (hm : s.mem.wf = true) : t.mem.wf = true := by
  cases h with
  | raised hf => exact hm
  | halted hp ho => exact hm
  | wroteRegister r v hw => simpa using hm
  | wroteCell hw ho hb ha => exact Memory.wf_write (by omega) hm

/-- `pc` moves on only when both operand bytes were in the window: from 254, the end of the path, it does not (R72). -/
theorem StepEnd.keeps_pcInPath (h : StepEnd s t) (hs : s.pcInPath) : t.pcInPath := by
  have hnext : InWindow (s.pc + 2) → ∃ k, k ≤ 82 ∧ s.pc + 3 = 8 + 3 * k := by
    obtain ⟨k, hk, hpc⟩ := hs
    exact fun hw => ⟨k + 1, by omega, by omega⟩
  cases h with
  | raised hf => exact hs
  | halted hp ho => exact hs
  | wroteRegister r v hw => simpa [State.pcInPath] using hnext hw
  | wroteCell hw ho hb ha => exact hnext hw

/-- Settles O45: each part of the invariant is kept by every end of a step. -/
theorem stepKeepsSound : Obligations.StepKeepsSound := by
  intro s t hs h
  have hr := running_of_step_next h
  have hend := step_end h
  exact ⟨hend.keeps_wf hs.memory, hend.keeps_faultAgrees hr (State.noFault_of_running hs.record hr),
    hend.keeps_pcInPath hs.path⟩

end Sys2Proof.Machine
end

section
/-! What a step reads of memory (R37, R60): states that agree in the data window and in everything but memory act alike
under one instruction, and fetch the same instruction when they agree in the three cells from `pc` on. -/

namespace Sys2Proof.Machine

variable {s s' u u' : State} {b1 b2 : Byte}

/-- The two states differ at most in cells of the instruction window, with both memories in canonical form. -/
structure State.SameData (s s' : State) : Prop where
  rest : s.sameButMemory s'
  data : ∀ a, a < 8 → s.mem.read a = s'.mem.read a
  wf : s.mem.wf = true
  wf' : s'.mem.wf = true

/-- A next state of the first outcome has one of the second that holds the same data. -/
def ActAlike (o o' : Host.Outcome State Fault Refusal) : Prop :=
  ∀ t, o = .next t → ∃ t', o' = .next t' ∧ t.SameData t'

/-! ### The operations keep the agreement -/

namespace State.SameData

theorem pc (h : s.SameData s') : s.pc = s'.pc := h.rest.1

theorem run (h : s.SameData s') : s.run = s'.run := by
  obtain ⟨-, -, -, hrun, -⟩ := h.rest
  exact hrun

theorem reg (h : s.SameData s') (r : Reg) : s.reg r = s'.reg r := by
  obtain ⟨-, h1, h2, -, -⟩ := h.rest
  cases r
  exacts [h1, h2]

theorem raise (h : s.SameData s') (f : FaultRecord) : (s.raise f).SameData (s'.raise f) := by
  obtain ⟨⟨hpc, h1, h2, -, -⟩, hdata, hwf, hwf'⟩ := h
  exact ⟨⟨hpc, h1, h2, rfl, rfl⟩, hdata, hwf, hwf'⟩

theorem halt (h : s.SameData s') : State.SameData { s with run := .halted } { s' with run := .halted } := by
  obtain ⟨⟨hpc, h1, h2, -, hfault⟩, hdata, hwf, hwf'⟩ := h
  exact ⟨⟨hpc, h1, h2, rfl, hfault⟩, hdata, hwf, hwf'⟩

theorem advance (h : s.SameData s') : s.advance.SameData s'.advance := by
  obtain ⟨⟨hpc, h1, h2, hrun, hfault⟩, hdata, hwf, hwf'⟩ := h
  exact ⟨⟨congrArg (· + 3) hpc, h1, h2, hrun, hfault⟩, hdata, hwf, hwf'⟩

theorem setReg (h : s.SameData s') (r : Reg) (v : Byte) : (s.setReg r v).SameData (s'.setReg r v) := by
  obtain ⟨⟨hpc, h1, h2, hrun, hfault⟩, hdata, hwf, hwf'⟩ := h
  cases r with
  | r1 => exact ⟨⟨hpc, rfl, h2, hrun, hfault⟩, hdata, hwf, hwf'⟩
  | r2 => exact ⟨⟨hpc, h1, rfl, hrun, hfault⟩, hdata, hwf, hwf'⟩

theorem write (h : s.SameData s') {a : Nat} (ha : a < 8) (v : Byte) :
    State.SameData { s with mem := s.mem.write a v } { s' with mem := s'.mem.write a v } := by
  obtain ⟨hrest, hdata, hwf, hwf'⟩ := h
  refine ⟨hrest, fun x hx => ?_, Memory.wf_write (by omega) hwf, Memory.wf_write (by omega) hwf'⟩
  change (s.mem.write a v).read x = (s'.mem.write a v).read x
  by_cases hxa : x = a
  · rw [hxa, Memory.read_write_self hwf, Memory.read_write_self hwf']
  · rw [Memory.read_write_other hxa, Memory.read_write_other hxa, hdata x hx]

theorem dataRead (h : s.SameData s') (a : Nat) : s.dataRead a = s'.dataRead a := by
  by_cases ha : a < 8
  · rw [State.dataRead_ok.2 ⟨ha, h.data a ha⟩, State.dataRead_ok.2 ⟨ha, rfl⟩]
  · rw [State.dataRead_error.2 ⟨by omega, rfl⟩, State.dataRead_error.2 ⟨by omega, rfl⟩]

end State.SameData

/-! ### The handlers -/

theorem actAlike_next (h : u.SameData u') : ActAlike (.next u) (.next u') := by
  intro t ht
  obtain rfl := Host.Outcome.next.inj ht
  exact ⟨u', rfl, h⟩

/-- Handlers that make the same check act alike when they do so after it passes. -/
theorem actAlike_finish_bind {α : Type} {x : Except FaultRecord α} {g g' : α → Except FaultRecord State}
    (hs : s.SameData s') (h : ∀ y, x = .ok y → ActAlike (finish s (g y)) (finish s' (g' y))) :
    ActAlike (finish s (x >>= g)) (finish s' (x >>= g')) := by
  cases hx : x with
  | ok y => exact h y hx
  | error f => exact actAlike_next (hs.raise f)

theorem execLoad_actAlike (hs : s.SameData s') : ActAlike (execLoad b1 b2 s) (execLoad b1 b2 s') := by
  rw [execLoad, execLoad, ← hs.pc]
  refine actAlike_finish_bind hs fun r _ => actAlike_finish_bind hs fun a _ => ?_
  rw [← hs.dataRead a]
  exact actAlike_finish_bind hs fun v _ => actAlike_next (hs.setReg r v).advance

theorem finish_dataWrite_actAlike (hs : s.SameData s') (a : Nat) (v : Byte) :
    ActAlike (finish s (s.dataWrite a v >>= fun t => pure t.advance))
      (finish s' (s'.dataWrite a v >>= fun t => pure t.advance)) := by
  by_cases ha : a < 8
  · rw [State.dataWrite_ok.2 ⟨ha, rfl⟩, State.dataWrite_ok.2 ⟨ha, rfl⟩]
    exact actAlike_next (hs.write ha v).advance
  · rw [State.dataWrite_error.2 ⟨by omega, rfl⟩, State.dataWrite_error.2 ⟨by omega, rfl⟩]
    exact actAlike_next (hs.raise _)

theorem execStore_actAlike (hs : s.SameData s') : ActAlike (execStore b1 b2 s) (execStore b1 b2 s') := by
  rw [execStore, execStore, ← hs.pc]
  refine actAlike_finish_bind hs fun r _ => actAlike_finish_bind hs fun a _ => ?_
  rw [← hs.reg r]
  exact finish_dataWrite_actAlike hs a _

theorem execAlu_actAlike (alu : Byte → Byte → Byte) (hs : s.SameData s') :
    ActAlike (execAlu alu b1 b2 s) (execAlu alu b1 b2 s') := by
  rw [execAlu, execAlu, ← hs.pc]
  refine actAlike_finish_bind hs fun d _ => actAlike_finish_bind hs fun q _ => ?_
  rw [← hs.reg d, ← hs.reg q]
  exact actAlike_next (hs.setReg d _).advance

theorem exec_operandRow_actAlike {op : Byte} {mk : Byte → Byte → Instr} (h : OperandRow op mk) (hs : s.SameData s') :
    ActAlike (exec (mk b1 b2) s) (exec (mk b1 b2) s') := by
  cases h with
  | load => exact execLoad_actAlike hs
  | store => exact execStore_actAlike hs
  | add => exact execAlu_actAlike aluAdd hs
  | sub => exact execAlu_actAlike aluSub hs

theorem raiseUnknownOpcode_actAlike (op : Byte) (hs : s.SameData s') :
    ActAlike (raiseUnknownOpcode op s) (raiseUnknownOpcode op s') := by
  rw [raiseUnknownOpcode, raiseUnknownOpcode, ← hs.pc]
  exact actAlike_next (hs.raise _)

/-! ### The step -/

/-- The decoder is given the same operand byte where the two memories agree: outside the window it is given no cell's. -/
theorem State.operandAt_congr {a : Nat} (h : s.mem.read a = s'.mem.read a) : s.operandAt a = s'.operandAt a := by
  simp only [State.operandAt, State.fetchByte, h]

/-- A step of states that hold the same data, and the same three bytes from `pc` on. -/
theorem step_actAlike (hs : s.SameData s') (hr : s.run = .running)
    (hcode : ∀ a, s.pc ≤ a → a ≤ s.pc + 2 → s.mem.read a = s'.mem.read a) : ActAlike (step s) (step s') := by
  have hr' : s'.run = .running := hs.run ▸ hr
  by_cases hp : InWindow s.pc
  · have hp' : InWindow s'.pc := hs.pc ▸ hp
    have ho : s'.mem.read s'.pc = s.mem.read s.pc := by
      rw [← hs.pc, hcode s.pc (by omega) (by omega)]
    obtain ⟨mk, hrow⟩ | hhalt | hno := opcode_cases (s.mem.read s.pc)
    · rw [step_of_operandRow hrow hr hp rfl, step_of_operandRow hrow hr' hp' ho, ← hs.pc,
        State.operandAt_congr (hcode (s.pc + 1) (by omega) (by omega)),
        State.operandAt_congr (hcode (s.pc + 2) (by omega) (by omega))]
      exact exec_operandRow_actAlike hrow hs
    · rw [haltStopsTheRun.2 s hr hp hhalt, haltStopsTheRun.2 s' hr' hp' (ho.trans hhalt)]
      exact actAlike_next hs.halt
    · rw [step_of_noHandler hr hp rfl hno, step_of_noHandler hr' hp' ho hno]
      exact raiseUnknownOpcode_actAlike _ hs
  · have hp' : ¬InWindow s'.pc := hs.pc ▸ hp
    have hraise : step s' = .next (s'.raise (.outOfRange s.pc .fetch)) := by
      rw [hs.pc]
      exact opcodeFetchOutsideWindowFaults s' hr' hp'
    rw [opcodeFetchOutsideWindowFaults s hr hp, hraise]
    exact actAlike_next (hs.raise (.outOfRange s.pc .fetch))

/-- Settles O39: the two steps act alike, and the second changes no byte of its instruction window. -/
theorem unreadBytesDoNotMatter : Obligations.UnreadBytesDoNotMatter := by
  intro s s' t hm hm' hrest hcells h
  have hs : s.SameData s' := ⟨hrest, fun a ha => hcells a (.inl ha), hm, hm'⟩
  obtain ⟨t', h', ht⟩ :=
    step_actAlike hs (running_of_step_next h) (fun a hlo hhi => hcells a (.inr ⟨hlo, hhi⟩)) t h
  exact ⟨t', h', ht.rest, ht.data, fun a ha => step_keeps_program_bytes h' ha⟩

end Sys2Proof.Machine
end

section
/-! Runs (R72, R98, R100, R102): each step that leaves a run RUNNING moves `pc` one place along the path of R21, which has
83 places, so a run from `start` has at most 83 steps. -/

namespace Sys2Proof.Machine

variable {s t u : State}

/-! ### How `runFor` goes -/

theorem runFor_of_halted (n : Nat) (h : s.run = .halted) : runFor n s = .halted s := by
  unfold runFor
  rw [h]

theorem runFor_of_faulted (n : Nat) (h : s.run = .faulted) : runFor n s = .faulted s := by
  unfold runFor
  rw [h]

theorem runFor_zero_of_running (h : s.run = .running) : runFor 0 s = .outOfFuel s := by
  unfold runFor
  rw [h]

theorem runFor_succ_of_step (n : Nat) (h : step s = .next t) : runFor (n + 1) s = runFor n t := by
  rw [runFor, running_of_step_next h]
  simp only [h]

/-- Without a step to take, the limit does not matter. -/
theorem runFor_eq_of_not_running (n m : Nat) (h : s.run ≠ .running) : runFor n s = runFor m s := by
  cases hr : s.run with
  | running => exact absurd hr h
  | halted => rw [runFor_of_halted n hr, runFor_of_halted m hr]
  | faulted => rw [runFor_of_faulted n hr, runFor_of_faulted m hr]

theorem runFor_ended_of_not_running (n : Nat) (h : s.run ≠ .running) : (runFor n s).ended := by
  cases hr : s.run with
  | running => exact absurd hr h
  | halted => exact runFor_of_halted n hr ▸ hr
  | faulted => exact runFor_of_faulted n hr ▸ hr

/-- A run that has ended within `n` steps ends so under any higher limit. -/
theorem runFor_eq_of_ended {n m : Nat} (hnm : n ≤ m) (h : (runFor n s).ended) : runFor m s = runFor n s := by
  induction n generalizing m s with
  | zero =>
    refine runFor_eq_of_not_running m 0 fun hr => ?_
    rw [runFor_zero_of_running hr] at h
    exact h
  | succ n ih =>
    by_cases hr : s.run = .running
    · obtain ⟨t, hstep⟩ := everyRunningStepHasANextState s hr
      obtain ⟨m, rfl⟩ : ∃ k, m = k + 1 := ⟨m - 1, by omega⟩
      rw [runFor_succ_of_step n hstep] at h ⊢
      rw [runFor_succ_of_step m hstep]
      exact ih (by omega) h
    · exact runFor_eq_of_not_running m (n + 1) hr

/-! ### The bound of R72 -/

/-- A run in a sound state ends before its `pc` could pass the end of the path. -/
theorem runFor_ended_of_sound {n : Nat} (hs : s.Sound) (hn : 257 ≤ s.pc + 3 * n) : (runFor n s).ended := by
  induction n generalizing s with
  | zero =>
    obtain ⟨hp, -⟩ := soundPcFitsItsSlot s hs
    omega
  | succ n ih =>
    by_cases hr : s.run = .running
    · obtain ⟨t, hstep⟩ := everyRunningStepHasANextState s hr
      rw [runFor_succ_of_step n hstep]
      obtain ⟨-, hpc⟩ | ⟨ht, -⟩ := pcMovesOnlyOnCompletion s t hstep
      · exact ih (stepKeepsSound s t hs hstep) (by omega)
      · exact runFor_ended_of_not_running n ht
    · exact runFor_ended_of_not_running (n + 1) hr

/-- Settles O46: from `pc` = 8, 83 steps would take `pc` to 257, and a higher limit leaves an ended run as it is. -/
theorem everyRunEndsWithin83Steps : Obligations.EveryRunEndsWithin83Steps := by
  intro image n hn
  have hended : (runFor 83 (State.start image)).ended := runFor_ended_of_sound (startIsSound image) (by simp)
  have heq : runFor n (State.start image) = runFor 83 (State.start image) := runFor_eq_of_ended hn hended
  exact ⟨heq ▸ hended, heq⟩

/-! ### What an outcome tells -/

theorem reachesIn_cons {n : Nat} (hstep : step s = .next t) (h : ReachesIn t n u) : ReachesIn s (n + 1) u := by
  induction h with
  | refl => exact .step .refl hstep
  | step _ hlast ih => exact .step ih hlast

/-- What R100 and R102 say of a harness's outcome after at most `n` steps from `s`. -/
def TellsTheTruth (n : Nat) (s : State) : RunEnd → Prop
  | .halted t => t.run = .halted ∧ ∃ k, k ≤ n ∧ ReachesIn s k t
  | .faulted t => t.run = .faulted ∧ ∃ k, k ≤ n ∧ ReachesIn s k t
  | .outOfFuel t => t.run = .running ∧ ReachesIn s n t
  | .stuck _ => False

/-- An outcome after a first step is one with a limit of one step more. -/
theorem TellsTheTruth.cons {n : Nat} {o : RunEnd} (hstep : step s = .next t) (h : TellsTheTruth n t o) :
    TellsTheTruth (n + 1) s o := by
  cases o with
  | halted u =>
    obtain ⟨hu, k, hk, hreach⟩ := h
    exact ⟨hu, k + 1, by omega, reachesIn_cons hstep hreach⟩
  | faulted u =>
    obtain ⟨hu, k, hk, hreach⟩ := h
    exact ⟨hu, k + 1, by omega, reachesIn_cons hstep hreach⟩
  | outOfFuel u =>
    obtain ⟨hu, hreach⟩ := h
    exact ⟨hu, reachesIn_cons hstep hreach⟩
  | stuck u => exact h

theorem tellsTheTruth_of_not_running (n : Nat) (h : s.run ≠ .running) : TellsTheTruth n s (runFor n s) := by
  cases hr : s.run with
  | running => exact absurd hr h
  | halted => exact runFor_of_halted n hr ▸ ⟨hr, 0, Nat.zero_le n, .refl⟩
  | faulted => exact runFor_of_faulted n hr ▸ ⟨hr, 0, Nat.zero_le n, .refl⟩

theorem runFor_tellsTheTruth (n : Nat) (s : State) : TellsTheTruth n s (runFor n s) := by
  induction n generalizing s with
  | zero =>
    by_cases hr : s.run = .running
    · exact runFor_zero_of_running hr ▸ ⟨hr, .refl⟩
    · exact tellsTheTruth_of_not_running 0 hr
  | succ n ih =>
    by_cases hr : s.run = .running
    · obtain ⟨t, hstep⟩ := everyRunningStepHasANextState s hr
      rw [runFor_succ_of_step n hstep]
      exact (ih t).cons hstep
    · exact tellsTheTruth_of_not_running (n + 1) hr

/-- Settles O47: `TellsTheTruth` is the statement's case distinction, and a RUNNING state always has a next one. -/
theorem runOutcomesTellTheTruth : Obligations.RunOutcomesTellTheTruth :=
  runFor_tellsTheTruth

/-- Settles O48: the observation lists the cells in order, and each code is the value of its case. -/
theorem hostObservesMemoryRunStateAndFault : Obligations.HostObservesMemoryRunStateAndFault := by
  refine ⟨fun s => ⟨?_, fun a ha => ?_, rfl, ?_⟩, fun _ _ _ => ⟨rfl, rfl, rfl, rfl⟩⟩
  · simp [observe]
  · simp [observe, ha]
  · cases hr : s.run <;> simp [observe, RunState.code, hr]

end Sys2Proof.Machine
end

section
/-! The assembler text (R61, D14). Its parts first: what trimming and splitting do with text that holds no space and no
comma, and the decimal digits of a byte. Then a statement is an operation and its operands, printed and read back. -/

namespace Sys2Proof.Assembler

variable {cs x y : List Char} {sep : Char → Bool} {i : Instr}

/-! ### Trimming and splitting -/

theorem dropSpaces_of_head?_ne (h : cs.head? ≠ some ' ') : dropSpaces cs = cs := by
  unfold dropSpaces
  split
  · simp at h
  · rfl

/-- Text that begins and ends with no space is its own trimming. -/
theorem trim_of_ends_ne (hhead : cs.head? ≠ some ' ') (hlast : cs.getLast? ≠ some ' ') : trim cs = cs := by
  rw [trim, dropSpaces_of_head?_ne hhead, dropSpaces_of_head?_ne (by rwa [List.head?_reverse]), List.reverse_reverse]

theorem splitAtSep_of_none (h : ∀ c ∈ cs, sep c = false) : splitAtSep sep cs = [cs] := by
  induction cs with
  | nil => rfl
  | cons c cs ih =>
    rw [splitAtSep, ih fun d hd => h d (List.mem_cons_of_mem c hd), h c List.mem_cons_self]
    rfl

/-- The part up to the first separator, and the parts of what follows it. -/
theorem splitAtSep_append_cons {c : Char} (hx : ∀ d ∈ x, sep d = false) (hc : sep c = true) :
    splitAtSep sep (x ++ c :: y) = x :: splitAtSep sep y := by
  induction x with
  | nil =>
    rw [List.nil_append, splitAtSep, if_pos hc]
  | cons d x ih =>
    rw [List.cons_append, splitAtSep, ih fun e he => hx e (List.mem_cons_of_mem d he), hx d List.mem_cons_self]
    rfl

/-! ### Operands -/

/-- Text that can stand for an operand: it is not empty and holds no space and no comma. -/
def IsOperandText (cs : List Char) : Prop := cs ≠ [] ∧ ∀ c ∈ cs, c ≠ ' ' ∧ c ≠ ','

theorem IsOperandText.head?_ne (h : IsOperandText cs) : cs.head? ≠ some ' ' :=
  fun he => (h.2 ' ' (List.mem_of_head? he)).1 rfl

theorem IsOperandText.getLast?_ne (h : IsOperandText cs) : cs.getLast? ≠ some ' ' :=
  fun he => (h.2 ' ' (List.mem_of_getLast? he)).1 rfl

theorem IsOperandText.trim (h : IsOperandText cs) : trim cs = cs :=
  trim_of_ends_ne h.head?_ne h.getLast?_ne

/-- The space that is printed after the comma does not count. -/
theorem IsOperandText.trim_space (h : IsOperandText cs) : Assembler.trim (' ' :: cs) = cs := by
  rw [Assembler.trim, dropSpaces]
  exact h.trim

/-- Operands as they are printed, between them a comma and a space, are read one by one. -/
theorem readOperands_of_isOperandText {first second : List Char → Option Byte} {mk : Byte → Byte → Instr} {a b : Byte}
    (hx : IsOperandText x) (hy : IsOperandText y) (ha : first x = some a) (hb : second y = some b) :
    readOperands first second mk (x ++ [',', ' '] ++ y) = some (mk a b) := by
  have hsplit : splitAtSep (· == ',') (x ++ [',', ' '] ++ y) = [x, ' ' :: y] := by
    rw [List.append_assoc, List.cons_append, splitAtSep_append_cons (by simpa using fun c hc => (hx.2 c hc).2) rfl,
      splitAtSep_of_none (by simpa using fun c hc => (hy.2 c hc).2)]
    rfl
  simp only [readOperands, hsplit, hx.trim, hy.trim_space, ha, hb]
  rfl

/-- What is read as operands is an instruction whose operands were each read. -/
theorem readOperands_eq_some {first second : List Char → Option Byte} {mk : Byte → Byte → Instr}
    (h : readOperands first second mk cs = some i) :
    ∃ x y a b, first x = some a ∧ second y = some b ∧ mk a b = i := by
  unfold readOperands at h
  split at h
  · simp only [Option.bind_eq_bind, Option.bind_eq_some_iff] at h
    obtain ⟨a, ha, b, hb, hi⟩ := h
    exact ⟨_, _, a, b, ha, hb, Option.some.inj hi⟩
  · simp at h

/-! ### Register names -/

/-- The byte is a register selector, in the numbers of the statements. -/
theorem readReg_selector {a : Byte} (h : readReg cs = some a) : a = 0x01 ∨ a = 0x02 := by
  unfold readReg at h
  split at h
  · exact .inl (Option.some.inj h).symm
  · split at h
    · exact .inr (Option.some.inj h).symm
    · simp at h

theorem isOperandText_r1 : IsOperandText ['R', '1'] := by simp [IsOperandText]

theorem isOperandText_r2 : IsOperandText ['R', '2'] := by simp [IsOperandText]

/-- A register name that is printed is read back. -/
theorem printReg_eq_some {a : Byte} (h : printReg a = some x) : IsOperandText x ∧ readReg x = some a := by
  unfold printReg at h
  split at h
  · obtain rfl := Option.some.inj h
    subst a
    exact ⟨isOperandText_r1, rfl⟩
  · split at h
    · obtain rfl := Option.some.inj h
      subst a
      exact ⟨isOperandText_r2, rfl⟩
    · simp at h

theorem exists_printReg {a : Byte} (h : a = 0x01 ∨ a = 0x02) : ∃ x, printReg a = some x := by
  obtain rfl | rfl := h
  exacts [⟨['R', '1'], rfl⟩, ⟨['R', '2'], rfl⟩]

/-! ### Decimal numbers -/

theorem digitValue_digitChar {n : Nat} (h : n < 10) : digitValue 10 (digitChar n) = some n := by
  revert n
  decide

/-- A digit is no space, no comma and not the `x` of a hex number. -/
theorem digitChar_ne {n : Nat} (h : n < 10) : digitChar n ≠ ' ' ∧ digitChar n ≠ ',' ∧ digitChar n ≠ 'x' := by
  revert n
  decide

theorem readDigits_digitChar {n acc : Nat} (h : n < 10) :
    readDigits 10 acc (digitChar n :: cs) = readDigits 10 (acc * 10 + n) cs := by
  rw [readDigits, digitValue_digitChar h]
  rfl

/-- The digits that `printByte` prints: each below 10, and their number the byte's. -/
theorem exists_printByte_eq (b : Byte) :
    ∃ ns : List Nat, ns ≠ [] ∧ (∀ n ∈ ns, n < 10) ∧ printByte b = ns.map digitChar ∧
      ns.foldl (fun acc n => acc * 10 + n) 0 = b.toNat := by
  have hb : b.toNat < 256 := b.isLt
  unfold printByte
  simp only
  split
  · exact ⟨[b.toNat], by simp, by simpa, rfl, by simp⟩
  · split
    · exact ⟨[b.toNat / 10, b.toNat % 10], by simp, by simp; omega, rfl, by simp; omega⟩
    · exact ⟨[b.toNat / 100, b.toNat / 10 % 10, b.toNat % 10], by simp, by simp; omega, rfl, by simp; omega⟩

theorem readDigits_map_digitChar {ns : List Nat} (h : ∀ n ∈ ns, n < 10) (acc : Nat) :
    readDigits 10 acc (ns.map digitChar) = some (ns.foldl (fun acc n => acc * 10 + n) acc) := by
  induction ns generalizing acc with
  | nil => rfl
  | cons n ns ih =>
    rw [List.map_cons, readDigits_digitChar (h n List.mem_cons_self)]
    exact ih (fun k hk => h k (List.mem_cons_of_mem n hk)) _

/-- A number without an `x` is read in decimal. -/
theorem readByte_of_no_x (hne : cs ≠ []) (hx : 'x' ∉ cs) {b : Byte} (h : readDigits 10 0 cs = some b.toNat) :
    readByte cs = some b := by
  have hb : b.toNat < 256 := b.isLt
  unfold readByte
  split
  · exact absurd rfl hne
  · simp at hx
  · simp [h, hb]

/-- A byte printed is an operand that is read back. -/
theorem printByte_isOperandText (b : Byte) : IsOperandText (printByte b) := by
  obtain ⟨ns, hne, hlt, hp, -⟩ := exists_printByte_eq b
  rw [hp]
  refine ⟨by simpa using hne, fun c hc => ?_⟩
  obtain ⟨n, hn, rfl⟩ := List.mem_map.1 hc
  obtain ⟨hspace, hcomma, -⟩ := digitChar_ne (hlt n hn)
  exact ⟨hspace, hcomma⟩

theorem readByte_printByte (b : Byte) : readByte (printByte b) = some b := by
  obtain ⟨ns, hne, hlt, hp, hval⟩ := exists_printByte_eq b
  rw [hp]
  refine readByte_of_no_x (by simpa using hne) (fun hx => ?_) (by rw [readDigits_map_digitChar hlt, hval])
  obtain ⟨n, hn, hnx⟩ := List.mem_map.1 hx
  obtain ⟨-, -, hnex⟩ := digitChar_ne (hlt n hn)
  exact hnex hnx

/-! ### Statements -/

/-- The text of an instruction with two operands. -/
def operationText (op x y : List Char) : List Char := op ++ ' ' :: (x ++ [',', ' '] ++ y)

/-- A printed statement has no space at its ends, so that reading it goes by its operation. -/
theorem trim_operationText {op : List Char} (hop : IsOperandText op) (hy : IsOperandText y) :
    trim (operationText op x y) = operationText op x y := by
  apply trim_of_ends_ne
  · rw [operationText, List.head?_append_of_ne_nil _ hop.1]
    exact hop.head?_ne
  · rw [operationText, ← List.cons_append, ← List.append_assoc, List.getLast?_append_of_ne_nil _ hy.1]
    exact hy.getLast?_ne

/-- The statements with two operands: the operation's name, how its second operand is read and printed, and the
instruction. The first operand is a register in each (R61). -/
inductive OperandForm :
    List Char → (List Char → Option Byte) → (Byte → Option (List Char)) → (Byte → Byte → Instr) → Prop where
  | load : OperandForm ['L', 'O', 'A', 'D'] readByte (fun a => some (printByte a)) .load
  | store : OperandForm ['S', 'T', 'O', 'R', 'E'] readByte (fun a => some (printByte a)) .store
  | add : OperandForm ['A', 'D', 'D'] readReg printReg .add
  | sub : OperandForm ['S', 'U', 'B'] readReg printReg .sub

section Forms

variable {op : List Char} {read : List Char → Option Byte} {pr : Byte → Option (List Char)}
  {mk : Byte → Byte → Instr} {a b : Byte}

theorem OperandForm.name (h : OperandForm op read pr mk) : IsOperandText op := by
  cases h <;> simp [IsOperandText]

theorem OperandForm.print (h : OperandForm op read pr mk) :
    print (mk a b) = (printReg a).bind fun x => (pr b).map fun y => operationText op x y := by
  cases h with
  | load | store => cases hx : printReg a <;> simp [Assembler.print, operationText, hx]
  | add | sub => cases hx : printReg a <;> cases hy : printReg b <;> simp [Assembler.print, operationText, hx, hy]

/-- The second operand that is printed is read back. -/
theorem OperandForm.second (h : OperandForm op read pr mk) (hy : pr b = some y) :
    IsOperandText y ∧ read y = some b := by
  cases h with
  | load | store =>
    obtain rfl := Option.some.inj hy
    exact ⟨printByte_isOperandText b, readByte_printByte b⟩
  | add | sub => exact printReg_eq_some hy

theorem OperandForm.readStatement (h : OperandForm op read pr mk) (hy : IsOperandText y) :
    readStatement (operationText op x y) = readOperands readReg read mk (x ++ [',', ' '] ++ y) := by
  rw [Assembler.readStatement, trim_operationText h.name hy]
  cases h <;> rfl

/-- A statement with two operands that is printed is read back. -/
theorem OperandForm.readStatement_print (h : OperandForm op read pr mk)
    (hp : Assembler.print (mk a b) = some cs) : Assembler.readStatement cs = some (mk a b) := by
  rw [h.print] at hp
  obtain ⟨x, hx, hp⟩ := Option.bind_eq_some_iff.1 hp
  obtain ⟨y, hy, rfl⟩ := Option.map_eq_some_iff.1 hp
  obtain ⟨hxt, hxr⟩ := printReg_eq_some hx
  obtain ⟨hyt, hyr⟩ := h.second hy
  rw [h.readStatement hyt, readOperands_of_isOperandText hxt hyt hxr hyr]

/-- Operands that were read make an instruction with a form in the text (R61). -/
theorem OperandForm.hasAssemblerForm (h : OperandForm op read pr mk) (ha : readReg x = some a)
    (hb : read y = some b) : Machine.HasAssemblerForm (mk a b) := by
  cases h with
  | load | store => exact readReg_selector ha
  | add | sub => exact ⟨readReg_selector ha, readReg_selector hb⟩

end Forms

/-- A statement that is read is HALT, or the reading of some operands. -/
theorem readStatement_eq_some (h : readStatement cs = some i) :
    i = .halt ∨ ∃ op read pr mk rest, OperandForm op read pr mk ∧ readOperands readReg read mk rest = some i := by
  unfold readStatement at h
  split at h
  · exact .inr ⟨_, _, _, _, _, .load, h⟩
  · exact .inr ⟨_, _, _, _, _, .store, h⟩
  · exact .inr ⟨_, _, _, _, _, .add, h⟩
  · exact .inr ⟨_, _, _, _, _, .sub, h⟩
  · exact .inl (Option.some.inj h).symm
  · simp at h

/-- Settles O6: each statement with two operands by `OperandForm.readStatement_print`, and HALT as it stands. -/
theorem assemblerReadsWhatItPrints : Obligations.AssemblerReadsWhatItPrints := by
  intro i cs h
  cases i with
  | load s a => exact OperandForm.load.readStatement_print h
  | store s a => exact OperandForm.store.readStatement_print h
  | add d t => exact OperandForm.add.readStatement_print h
  | sub d t => exact OperandForm.sub.readStatement_print h
  | halt =>
    obtain rfl := Option.some.inj h
    decide
  | reservedAddi | reservedSubi | reservedJump | reservedBeqz | unknown => simp [print] at h

theorem hasAssemblerForm_of_readStatement (h : readStatement cs = some i) : Machine.HasAssemblerForm i := by
  obtain rfl | ⟨op, read, pr, mk, rest, hform, hread⟩ := readStatement_eq_some h
  · trivial
  · obtain ⟨x, y, a, b, ha, hb, rfl⟩ := readOperands_eq_some hread
    exact hform.hasAssemblerForm ha hb

theorem exists_print_of_hasAssemblerForm (h : Machine.HasAssemblerForm i) : ∃ cs, print i = some cs := by
  cases i with
  | load s a | store s a =>
    obtain ⟨x, hx⟩ := exists_printReg h
    exact ⟨_, by rw [print, hx]; rfl⟩
  | add d t | sub d t =>
    obtain ⟨hd, ht⟩ := h
    obtain ⟨x, hx⟩ := exists_printReg hd
    obtain ⟨y, hy⟩ := exists_printReg ht
    exact ⟨_, by rw [print, hx, hy]; rfl⟩
  | halt => exact ⟨_, rfl⟩
  | reservedAddi | reservedSubi | reservedJump | reservedBeqz | unknown => exact h.elim

/-- Settles O7: what is printed is read, what is read has a form, and what has a form is printed. -/
theorem assemblerFormsAreTheFive : Obligations.AssemblerFormsAreTheFive := by
  intro i
  refine ⟨⟨?_, exists_print_of_hasAssemblerForm⟩, ⟨?_, fun hform => ?_⟩⟩
  · rintro ⟨cs, hcs⟩
    exact hasAssemblerForm_of_readStatement (assemblerReadsWhatItPrints i cs hcs)
  · rintro ⟨cs, hcs⟩
    exact hasAssemblerForm_of_readStatement hcs
  · obtain ⟨cs, hcs⟩ := exists_print_of_hasAssemblerForm hform
    exact ⟨cs, assemblerReadsWhatItPrints i cs hcs⟩

end Sys2Proof.Assembler
end
